-- ==== Sys2Proof/Word.lean ====
section
/-! DEFINITION. The word types of WTLM-CORE's ports and message registers (00_scope.md R10; 30_encoding.md R56, R59).
Timestamps and intervals are naturals: the spec leaves their width TIME_W open (00_scope.md R8), the step reads and
writes them modulo `2 ^ TIME_W` (40_capture.md R75), and the invariant of Safety.lean states the bound. -/

namespace Sys2Proof

/-- A byte is 8 bits (R10): an entry of `raw` or `msg`. -/
abbrev Byte := BitVec 8

/-- A nibble is 4 bits (R10). -/
abbrev Nibble := BitVec 4

/-- A command word of format H (30_encoding.md R56). -/
abbrev CmdWord := BitVec 16

/-- The data part of a response (30_encoding.md R59). -/
abbrev Data := BitVec 32

/-- A response word of format R (30_encoding.md R59). -/
abbrev RespWord := BitVec 34

end Sys2Proof
end

