-- ==== Sys2Proof/Machine/Constants.lean ====
section
/-! DEFINITION. The constants of 00_scope.md R7, under the names R7 gives them. Their values are the spec's (R7, R9);
nobody has audited them against the software reference (log entry 11). -/

namespace Sys2Proof.Machine

/-- CAPACITY: entries of the timing buffer. -/
def capacity : Nat := 144

/-- SHORT_TOL: isShort tolerance in units of DELTA. -/
def shortTol : Nat := 2

/-- LONG_TOL: isLong tolerance in units of DELTA. -/
def longTol : Nat := 4

/-- SCAN_TOL: scan-gap tolerance in units of SCAN_DELTA. -/
def scanTol : Nat := 3

/-- TEMP_MIN: lowest valid raw temperature. -/
def tempMin : Nat := 400

/-- TEMP_MAX: highest valid raw temperature. -/
def tempMax : Nat := 1000

/-- TEMP_OFFSET: subtracted from a valid raw temperature. -/
def tempOffset : Int := 400

/-- TEMP_INVALID: the temperature sentinel "invalid". -/
def tempInvalid : Int := -40

/-- TX_ODD: seconds when bit 0 of n11 is set. -/
def txOdd : Nat := 5

/-- TX_BIT3: seconds when bit 0 of n11 is clear and bit 3 set. -/
def txBit3 : Nat := 30

/-- TX_ZERO: seconds when n11 is 0. -/
def txZero : Nat := 180

/-- The code of an unknown transmit interval (44_fields.md R143). -/
def txUnknown : Nat := 0

end Sys2Proof.Machine
end

