-- ==== Sys2Proof/Config.lean ====
section
/-! DEFINITION. The parameters the spec leaves open (00_scope.md R8): arguments of the model, fixed for the lifetime
of a block instance and never written (10_state.md R36). -/

namespace Sys2Proof

/-- The open parameters of one block instance (R8). No rule assumes a value or a relation between them. -/
structure Config where
  /-- TIME_W: the width in bits of a timestamp and of a stored interval; a natural ≥ 1. -/
  timeW : Nat
  /-- PERIOD: the short pulse unit, in microseconds. -/
  period : Nat
  /-- DELTA: the pulse jitter tolerance unit, in microseconds. -/
  delta : Nat
  /-- SCAN_GAP: the configured minimum scanning gap, in microseconds. -/
  scanGap : Nat
  /-- SCAN_DELTA: the fixed delta of the scan-gap window, in microseconds. -/
  scanDelta : Nat
  deriving DecidableEq, Repr

/-- The one condition R8 puts on the parameters: TIME_W is at least 1. -/
abbrev Config.wf (c : Config) : Prop := 1 ≤ c.timeW

/-- Free value (log entry 4): one less than the TIME_W of the block that `State.reset` describes. -/
opaque Config.openTimeWLessOne : Nat

/-- Free value (log entry 4): the PERIOD of the block that `State.reset` describes. -/
opaque Config.openPeriod : Nat

/-- Free value (log entry 4): the DELTA of the block that `State.reset` describes. -/
opaque Config.openDelta : Nat

/-- Free value (log entry 4): the SCAN_GAP of the block that `State.reset` describes. -/
opaque Config.openScanGap : Nat

/-- Free value (log entry 4): the SCAN_DELTA of the block that `State.reset` describes. -/
opaque Config.openScanDelta : Nat

/-- The parameters of an unspecified block instance: every one open, TIME_W at least 1 (R8). -/
def Config.block : Config where
  timeW := Config.openTimeWLessOne + 1
  period := Config.openPeriod
  delta := Config.openDelta
  scanGap := Config.openScanGap
  scanDelta := Config.openScanDelta

end Sys2Proof
end

