-- ==== Sys2Proof/Syntax.lean ====
section
/-! DEFINITION. The operations of WTLM-CORE: the 18 host commands and the edge event (30_encoding.md R57, R60). -/

namespace Sys2Proof

/-- One constructor per row of spec/opcode_table.json. Class N commands have no operand; `idx` is the unsigned
operand of a class B or P command (R61, R62); `now` is the timestamp of an edge event (R57). -/
inductive Instr where
  /-- START, 40_capture.md R80. -/
  | start
  /-- STOP, 40_capture.md R81. -/
  | stop
  /-- RESET, 40_capture.md R82. -/
  | reset
  /-- IS_READY, 40_capture.md R83. -/
  | isReady
  /-- GET_STATUS, 40_capture.md R84. -/
  | getStatus
  /-- GET_SCAN, 40_capture.md R85. -/
  | getScan
  /-- GET_INVCNT, 42_assembler.md R114. -/
  | getInvcnt
  /-- GET_RAW, 42_assembler.md R112: `idx` is a byte index. -/
  | getRaw (idx : Nat)
  /-- GET_MSG, 42_assembler.md R113: `idx` is a byte index. -/
  | getMsg (idx : Nat)
  /-- GET_NIB, 44_fields.md R136: `idx` is a nibble position. -/
  | getNib (idx : Nat)
  /-- VERIFY, 43_integrity.md R127. -/
  | verify
  /-- AVAILABLE, 43_integrity.md R129. -/
  | available
  /-- TEMP, 44_fields.md R138. -/
  | temp
  /-- DEPTH, 44_fields.md R139. -/
  | depth
  /-- DEVID, 44_fields.md R140. -/
  | devid
  /-- SERID, 44_fields.md R141. -/
  | serid
  /-- LOWBAT, 44_fields.md R142. -/
  | lowbat
  /-- TXINT, 44_fields.md R143. -/
  | txint
  /-- EDGE, 40_capture.md R75: not a command word; it has no response. -/
  | edge (now : Nat)
  deriving DecidableEq, Repr

/-- What one step consumes (R13, R58): an event of the edge port (format E, R57) or a word of the command port
(format H, R56). The tag also names the agent: the edge agent or the host (60_exceptions.md R173). -/
inductive Event where
  /-- The edge agent delivers `EDGE(now)`. -/
  | edge (now : Nat)
  /-- The host issues the command word `w`, legal or not. -/
  | cmd (w : CmdWord)
  deriving DecidableEq, Repr

end Sys2Proof
end

