-- ==== Sys2Proof/Machine/State.lean ====
section
/-! DEFINITION. The state of WTLM-CORE: the record of 10_state.md R20, the configuration of its block instance and
the contents of its ports, all plain data; and the power-on state (10_state.md R39; 70_reset_and_hazards.md R180). -/

namespace Sys2Proof.Machine

/-- The three-valued `Symbol` of 00_scope.md R14. -/
inductive Symbol where
  /-- A decoded 0. -/
  | s0
  /-- A decoded 1. -/
  | s1
  /-- Invalid. -/
  | sinv
  deriving DecidableEq, Repr

/-- The CaptureState (10_state.md R23). -/
inductive Phase where
  /-- Waiting for a scan gap. -/
  | seeking
  /-- Filling the timing buffer. -/
  | recording
  deriving DecidableEq, Repr

/-- The status of a response (30_encoding.md R59; 60_exceptions.md R161 to R165). -/
inductive Status where
  /-- The command's result is in the data word. -/
  | ok
  /-- A capture is in progress (R163). -/
  | notReady
  /-- The checksum of the message fails (R164). -/
  | invalid
  /-- The word spells no operation (R162). -/
  | illegal
  deriving DecidableEq, Repr

/-- One response of the response port (30_encoding.md R59; 00_scope.md R15). -/
structure Response where
  status : Status
  data : Data
  deriving DecidableEq, Repr

/-- The record `s` of 10_state.md R20: exactly these fields and no others. -/
structure Block where
  /-- The edge source is attached (R21). -/
  bound : Bool
  /-- The RunningFlag (R22). -/
  running : Bool
  /-- The CaptureState (R23). -/
  phase : Phase
  /-- The next timing-buffer entry to be written, 0 to 144 (R24). -/
  cursor : Nat
  /-- The timestamp of the most recent delivered edge (R25). -/
  lastEdgeTime : Nat
  /-- The interval that started recording (R26). -/
  scanTiming : Nat
  /-- The TimingBuffer (R27). -/
  tbuf : Vector Nat 144
  /-- The BitString (R28). -/
  sym : Vector Symbol 72
  /-- The RawMessage (R29). -/
  raw : Vector Byte 9
  /-- The Message (R30). -/
  msg : Vector Byte 9
  /-- The number of Invalid symbols (R31). -/
  invCount : Nat
  deriving DecidableEq, Repr

/-- The whole machine: the block's record, the parameters of its instance, and its ports. -/
structure State where
  /-- The architectural state (10_state.md R20). -/
  block : Block
  /-- The open parameters (00_scope.md R8). They are configuration, not block state, and no step writes them
  (10_state.md R36); they stand here because a model takes them as arguments (log entry 4). -/
  cfg : Config
  /-- What the edge port and the command port deliver, oldest first: the total order of the two agents' steps that
  the environment has chosen (20_memory.md R48; 30_encoding.md R58; log entry 1). -/
  events : List Event
  /-- What the response port has returned, oldest first (30_encoding.md R55 (c), R59; log entry 3). No step reads
  it (10_state.md R33). -/
  responses : List Response
  deriving DecidableEq, Repr

/-- Why the machine could stop. It cannot: WTLM-CORE raises no exception and takes no trap (60_exceptions.md R160)
and is always able to take a step (R176). There is no constructor, which is safe: no claim can rest on a stop. -/
inductive Fault where
  deriving DecidableEq, Repr

/-- Why the model could refuse an instruction. -/
inductive Refusal where
  /-- An instruction without a meaning, refused by its mnemonic in `exec`'s arm. No arm raises it: every
  instruction has its meaning. Safe. -/
  | notModelled (mnemonic : String)
  deriving DecidableEq, Repr

/-- The power-on value of every field of the record (10_state.md R39; 70_reset_and_hazards.md R180). -/
def Block.powerOn : Block where
  bound := false
  running := true
  phase := .seeking
  cursor := 0
  lastEdgeTime := 0
  scanTiming := 0
  tbuf := Vector.replicate 144 0
  sym := Vector.replicate 72 .s0
  raw := Vector.replicate 9 0x00
  msg := Vector.replicate 9 0x00
  invCount := 0

/-- The power-on state of a block instance with the parameters `c`: nothing delivered yet, nothing returned yet
(70_reset_and_hazards.md R180: power-on reset produces no response). -/
def State.powerOn (c : Config) : State where
  block := Block.powerOn
  cfg := c
  events := []
  responses := []

/-- The machine right after power-on reset, for an unspecified block instance (R39, R180; log entry 4). -/
def State.reset : State := State.powerOn Config.block

end Sys2Proof.Machine
end

