-- ==== Sys2Proof/Machine/Classifier.lean ====
section
/-! DEFINITION. The pulse classifier (41_classifier.md R95 to R98): a pure function of two intervals and the
configuration, computed on mathematical integers. -/

namespace Sys2Proof.Machine

/-- `|x - y| ≤ tol` in ℤ, inclusive: the shape of every tolerance window of the spec. -/
def within (x y tol : Nat) : Bool := decide (((x : Int) - (y : Int)).natAbs ≤ tol)

/-- isShort (R95). -/
def isShort (c : Config) (t : Nat) : Bool := within t c.period (shortTol * c.delta)

/-- isLong (R96). -/
def isLong (c : Config) (t : Nat) : Bool := within t (2 * c.period) (longTol * c.delta)

/-- classify (R97), its clauses in the order the rule lists them, so S0 wins where the windows overlap (R98). -/
def classify (c : Config) (high low : Nat) : Symbol :=
  if isShort c high && isShort c low then .s0
  else if isShort c high && isLong c low then .s1
  else .sinv

end Sys2Proof.Machine
end

