-- ==== Sys2Proof/Machine/Ops.lean ====
section
/-! DEFINITION. The named operations every meaning is built from: answering a command, finishing an edge step,
clearing a capture, the output level, the codes of the formats. WTLM-CORE raises no exception and takes no trap
(60_exceptions.md R160, R170): `raise` is replaced by `respond` (00_scope.md R12), so taking an exception and
returning from one do not occur here. It has no memory (20_memory.md R40). -/

namespace Sys2Proof.Machine

/-- `bool(b)` of 00_scope.md R15: 1 when `b` is true and 0 when it is false. -/
def boolData (b : Bool) : Data := if b then 1 else 0

/-- `zext_32` of a natural (00_scope.md R10): its value in the 32-bit data word. -/
def zext32 (n : Nat) : Data := BitVec.ofNat 32 n

/-- `sext_32(v as 16-bit two's complement)` of 44_fields.md R138. -/
def sext32 (v : Int) : Data := (BitVec.ofInt 16 v).signExtend 32

/-- The two status bits of format R (30_encoding.md R59). -/
def Status.code : Status → BitVec 2
  | .ok => 0b00
  | .notReady => 0b01
  | .invalid => 0b10
  | .illegal => 0b11

/-- The 34-bit response word of format R (30_encoding.md R59): status in bits 33:32, data in bits 31:0. -/
def Response.word (r : Response) : RespWord := r.status.code ++ r.data

/-- The internal two-bit encoding of a symbol (10_state.md R28). -/
def Symbol.code : Symbol → BitVec 2
  | .s0 => 0b00
  | .s1 => 0b01
  | .sinv => 0b10

/-- The bit of GET_STATUS that shows the phase (10_state.md R20: Seeking = 0, Recording = 1). -/
def Phase.bit : Phase → BitVec 1
  | .seeking => 0
  | .recording => 1

/-- The level output `ready_o`, `NOT running` in every state (10_state.md R35). -/
def State.readyO (s : State) : Bool := !s.block.running

/-- The response port returns one response (30_encoding.md R58, R59). -/
def State.emit (r : Response) (s : State) : State := { s with responses := s.responses ++ [r] }

/-- A step writes the block's record. -/
def State.putBlock (b : Block) (s : State) : State := { s with block := b }

/-- `respond(st, d)` (00_scope.md R12, R15): the one way a command answers. -/
def respond (st : Status) (d : Data) (s : State) : Host.Outcome State Fault Refusal :=
  .next (s.emit ⟨st, d⟩)

/-- An illegal word, or an index out of its range: ILLEGAL with data 0, and no field written (60_exceptions.md R162;
20_memory.md R45). -/
def respondIllegal (s : State) : Host.Outcome State Fault Refusal := respond .illegal 0 s

/-- The end of an edge step: the record is written and no response is returned (00_scope.md R13; 40_capture.md R75). -/
def finishEdge (b : Block) (s : State) : Host.Outcome State Fault Refusal := .next (s.putBlock b)

/-- `clearCapture`, the common effect of START and RESET (40_capture.md R79). It writes neither `bound` nor
`lastEdgeTime`. -/
def Block.clearCapture (b : Block) : Block :=
  { b with
    phase := .seeking
    cursor := 0
    running := true
    scanTiming := 0
    tbuf := Vector.replicate 144 0
    sym := Vector.replicate 72 .s0
    raw := Vector.replicate 9 0x00
    msg := Vector.replicate 9 0x00
    invCount := 0 }

end Sys2Proof.Machine
end

