-- ==== Sys2Proof/Machine/Flags.lean ====
section
/-! DEFINITION. WTLM-CORE has no condition-code or flag register (10_state.md R33). What plays their part is here: the
integrity verdict of the message, the gates that choose a response's status, and the status word. -/

namespace Sys2Proof.Machine

/-- The XOR-fold of message bytes 0 to 7, from 0x00 (43_integrity.md R125). -/
def checksum (m : Vector Byte 9) : Byte := (m.toList.take 8).foldl (fun c x => c ^^^ x) 0x00

/-- `verify(m)`: the fold equals byte 8 (43_integrity.md R126). -/
def verifies (m : Vector Byte 9) : Bool := checksum m == m[8]

/-- `available(s)`: a capture is complete and its message verifies (43_integrity.md R128). -/
def Block.available (b : Block) : Bool := !b.running && verifies b.msg

/-- The gate of the message reads: NOT_READY while a capture is in progress, with no checksum gate
(60_exceptions.md R163; 42_assembler.md R112 to R114). -/
def readyGate (v : Data) (s : State) : Host.Outcome State Fault Refusal :=
  if s.block.running then respond .notReady 0 s else respond .ok v s

/-- `fieldRespond(v)`, the gate every field command shares (44_fields.md R137): NOT_READY, then INVALID, then OK, in
the precedence of 60_exceptions.md R165. -/
def fieldRespond (v : Data) (s : State) : Host.Outcome State Fault Refusal :=
  if s.block.running then respond .notReady 0 s
  else if !verifies s.block.msg then respond .invalid 0 s
  else respond .ok v s

/-- The data word of GET_STATUS: sixteen zeros, cursor, five zeros, bound, phase, running (40_capture.md R84). -/
def Block.statusWord (b : Block) : Data :=
  0#16 ++ BitVec.ofNat 8 b.cursor ++ 0#5 ++ BitVec.ofBool b.bound ++ b.phase.bit ++ BitVec.ofBool b.running

end Sys2Proof.Machine
end

