-- ==== Sys2Proof/Machine/Operands.lean ====
section
/-! DEFINITION. The operand forms of the commands: a byte index of `raw` or `msg` (class B) and a nibble position of
`msg` (class P), 30_encoding.md R61, R62. An index out of its range is not wrapped, truncated or split
(20_memory.md R45). -/

namespace Sys2Proof.Machine

/-- Class B: byte `idx` of a 9-byte message, none when `idx > 8` (30_encoding.md R61, R62). -/
def byteOperand (m : Vector Byte 9) (idx : Nat) : Option Byte :=
  if h : idx ≤ 8 then some (m[idx]'(by omega)) else none

/-- Nibble `p` of a message, right-aligned: even positions select the high nibble, odd positions the low nibble
(44_fields.md R135; 20_memory.md R43). -/
def nibble (m : Vector Byte 9) (p : Fin 18) : Nibble :=
  if p.val % 2 = 0 then (m[p.val / 2]'(by omega)).extractLsb' 4 4 else (m[p.val / 2]'(by omega)).extractLsb' 0 4

/-- Class P: nibble position `idx` of a message, none when `idx > 17` (30_encoding.md R61, R62). -/
def nibbleOperand (m : Vector Byte 9) (idx : Nat) : Option Nibble :=
  if h : idx ≤ 17 then some (nibble m ⟨idx, by omega⟩) else none

end Sys2Proof.Machine
end

