-- ==== Sys2Proof/Machine/Assembler.lean ====
section
/-! DEFINITION. The frame assembler and nibble transform (42_assembler.md R105 to R111) and the three commands that
read its results (R112 to R114). -/

namespace Sys2Proof.Machine

/-- `bitval` (00_scope.md R14): an Invalid symbol packs as 0. -/
def Symbol.bitval : Symbol → BitVec 1
  | .s0 => 0
  | .s1 => 1
  | .sinv => 0

/-- classifyAll (R105): pair `k` is entries `2k` and `2k+1`, the first of them `high`. -/
def classifyAll (c : Config) (tbuf : Vector Nat 144) : Vector Symbol 72 :=
  Vector.ofFn fun k : Fin 72 => classify c tbuf[2 * k.val] tbuf[2 * k.val + 1]

/-- Byte `b` of the packed string, MSB first: symbol `8b` is bit 7 and symbol `8b+7` is bit 0 (20_memory.md R42). -/
def packByte (x : Vector Symbol 72) (b : Fin 9) : Byte :=
  x[8 * b.val].bitval ++ x[8 * b.val + 1].bitval ++ x[8 * b.val + 2].bitval ++ x[8 * b.val + 3].bitval ++
  x[8 * b.val + 4].bitval ++ x[8 * b.val + 5].bitval ++ x[8 * b.val + 6].bitval ++ x[8 * b.val + 7].bitval

/-- packBytes (R106). -/
def packBytes (x : Vector Symbol 72) : Vector Byte 9 := Vector.ofFn fun b => packByte x b

/-- reverseGroups (R107): symbol `4g + j` of the result is symbol `4g + 3 - j` of the string. -/
def reverseGroups (x : Vector Symbol 72) : Vector Symbol 72 :=
  Vector.ofFn fun i : Fin 72 => x[4 * (i.val / 4) + 3 - i.val % 4]

/-- rev4 (R108): the four bits of a nibble in reverse order. -/
def rev4 (n : Nibble) : Nibble :=
  n.extractLsb' 0 1 ++ n.extractLsb' 1 1 ++ n.extractLsb' 2 1 ++ n.extractLsb' 3 1

/-- countInvalid (R111). -/
def countInvalid (x : Vector Symbol 72) : Nat := x.countP fun y => y == .sinv

/-- The decode of a timing buffer into the four decode registers (R109). -/
structure Decode where
  sym : Vector Symbol 72
  raw : Vector Byte 9
  msg : Vector Byte 9
  invCount : Nat
  deriving DecidableEq, Repr

/-- decode (R109): the whole assembler as one function of the timing buffer and the configuration. -/
def decodeBuffer (c : Config) (tbuf : Vector Nat 144) : Decode :=
  let x := classifyAll c tbuf
  { sym := x, raw := packBytes x, msg := packBytes (reverseGroups x), invCount := countInvalid x }

/-- COMPLETE (R110, R111): load the decode registers from the timing buffer as it now stands. -/
def Block.complete (c : Config) (b : Block) : Block :=
  let d := decodeBuffer c b.tbuf
  { b with sym := d.sym, raw := d.raw, msg := d.msg, invCount := d.invCount }

/-- GET_RAW (R112). -/
def execGetRaw (idx : Nat) (s : State) : Host.Outcome State Fault Refusal :=
  match byteOperand s.block.raw idx with
  | none => respondIllegal s
  | some x => readyGate (zext32 x.toNat) s

/-- GET_MSG (R113). -/
def execGetMsg (idx : Nat) (s : State) : Host.Outcome State Fault Refusal :=
  match byteOperand s.block.msg idx with
  | none => respondIllegal s
  | some x => readyGate (zext32 x.toNat) s

/-- GET_INVCNT (R114). -/
def execGetInvcnt (s : State) : Host.Outcome State Fault Refusal :=
  readyGate (zext32 s.block.invCount) s

end Sys2Proof.Machine
end

