-- ==== Sys2Proof/Machine/Capture.lean ====
section
/-! DEFINITION. The capture state machine (40_capture.md): the edge step R75 to R78, the lifecycle commands R80 to R82
and the capture-status reads R83 to R85. -/

namespace Sys2Proof.Machine

/-- The timestamp the edge port carries is TIME_W bits, read modulo `2 ^ TIME_W` (R75 corner case 1; 60_exceptions.md
R172). A timestamp of a well-formed event is unchanged (log entry 5). -/
def portTime (c : Config) (now : Nat) : Nat := now % 2 ^ c.timeW

/-- `(now - lastEdgeTime) mod 2 ^ TIME_W`, the difference taken in ℤ (R75; 00_scope.md R11). -/
def interval (c : Config) (now last : Nat) : Nat :=
  (((now : Int) - (last : Int)) % ((2 ^ c.timeW : Nat) : Int)).toNat

/-- inScan (R76): the inclusive two-sided scan-gap window. -/
def inScan (c : Config) (i : Nat) : Bool := within i c.scanGap (scanTol * c.scanDelta)

/-- SEEK (R77). The interval that starts recording is not written to the timing buffer. -/
def Block.seek (c : Config) (i : Nat) (b : Block) : Block :=
  if inScan c i then { b with phase := .recording, scanTiming := i, cursor := 0 } else b

/-- The write of RECORD (R78): the interval goes to entry `cursor`, and the cursor moves on. No entry with index 144
or above exists (20_memory.md R41), so a write there is no write (log entry 6). -/
def Block.store (i : Nat) (b : Block) : Block :=
  { b with tbuf := b.tbuf.setIfInBounds b.cursor i, cursor := b.cursor + 1 }

/-- RECORD (R78), with completion when the cursor exceeds CAPACITY - 1. -/
def Block.record (c : Config) (i : Nat) (b : Block) : Block :=
  let b' := b.store i
  if b'.cursor > capacity - 1 then Block.complete c { b' with running := false } else b'

/-- The edge step on the record (R75). -/
def Block.edge (c : Config) (now : Nat) (b : Block) : Block :=
  if !b.bound then b
  else
    let i := interval c now b.lastEdgeTime
    let b' := { b with lastEdgeTime := now }
    if !b'.running then b'
    else
      match b'.phase with
      | .seeking => b'.seek c i
      | .recording => b'.record c i

/-- EDGE (R75). -/
def execEdge (now : Nat) (s : State) : Host.Outcome State Fault Refusal :=
  finishEdge (s.block.edge s.cfg (portTime s.cfg now)) s

/-- START (R80). -/
def execStart (s : State) : Host.Outcome State Fault Refusal :=
  respond .ok 0 (s.putBlock (Block.clearCapture { s.block with bound := true }))

/-- STOP (R81). -/
def execStop (s : State) : Host.Outcome State Fault Refusal :=
  respond .ok 0 (s.putBlock { s.block with bound := false })

/-- RESET (R82). -/
def execReset (s : State) : Host.Outcome State Fault Refusal :=
  respond .ok 0 (s.putBlock s.block.clearCapture)

/-- IS_READY (R83). -/
def execIsReady (s : State) : Host.Outcome State Fault Refusal :=
  respond .ok (boolData (!s.block.running)) s

/-- GET_STATUS (R84). -/
def execGetStatus (s : State) : Host.Outcome State Fault Refusal :=
  respond .ok s.block.statusWord s

/-- GET_SCAN (R85): the low 32 bits of the scanning timing. -/
def execGetScan (s : State) : Host.Outcome State Fault Refusal :=
  respond .ok (zext32 s.block.scanTiming) s

end Sys2Proof.Machine
end

