-- ==== Sys2Proof/Machine/Fields.lean ====
section
/-! DEFINITION. The nibble field extractor (44_fields.md R135 to R143): GET_NIB and the six typed fields. The field
formulas are computed on naturals (00_scope.md R11). -/

namespace Sys2Proof.Machine

/-- GET_NIB (R136): no checksum gate. -/
def execGetNib (idx : Nat) (s : State) : Host.Outcome State Fault Refusal :=
  match nibbleOperand s.block.msg idx with
  | none => respondIllegal s
  | some x => readyGate (zext32 x.toNat) s

/-- Three nibbles composed as `(a << 8) | (b << 4) | c` (R138, R139). -/
def compose3 (a b c : Nibble) : Nat := (a.toNat <<< 8) ||| (b.toNat <<< 4) ||| c.toNat

/-- Two nibbles composed as `(a << 4) | b` (R140, R141). -/
def compose2 (a b : Nibble) : Nat := (a.toNat <<< 4) ||| b.toNat

/-- The raw temperature `(n13 << 8) | (n12 << 4) | n10` (R138). -/
def rawTemp (m : Vector Byte 9) : Nat := compose3 (nibble m 13) (nibble m 12) (nibble m 10)

/-- The temperature in tenths of a degree Celsius, or the sentinel (R138). -/
def temperature (m : Vector Byte 9) : Int :=
  if tempMin ≤ rawTemp m ∧ rawTemp m ≤ tempMax then (rawTemp m : Int) - tempOffset else tempInvalid

/-- The depth in centimetres, `(n7 << 8) | (n6 << 4) | n8` (R139). -/
def depth (m : Vector Byte 9) : Nat := compose3 (nibble m 7) (nibble m 6) (nibble m 8)

/-- The device identity byte, `(n4 << 4) | n5` (R140). -/
def deviceId (m : Vector Byte 9) : Nat := compose2 (nibble m 4) (nibble m 5)

/-- The serial identity byte, `(n3 << 4) | n2` (R141). -/
def serialId (m : Vector Byte 9) : Nat := compose2 (nibble m 3) (nibble m 2)

/-- The low-battery nibble n9, not interpreted (R142). -/
def lowBattery (m : Vector Byte 9) : Nat := (nibble m 9).toNat

/-- The transmit interval in seconds from n11, its tests in the order of the rule (R143). -/
def transmitInterval (m : Vector Byte 9) : Nat :=
  let n := nibble m 11
  if n.getLsbD 0 then txOdd
  else if n.getLsbD 3 then txBit3
  else if n = 0 then txZero
  else txUnknown

/-- TEMP (R138). -/
def execTemp (s : State) : Host.Outcome State Fault Refusal :=
  fieldRespond (sext32 (temperature s.block.msg)) s

/-- DEPTH (R139). -/
def execDepth (s : State) : Host.Outcome State Fault Refusal :=
  fieldRespond (zext32 (depth s.block.msg)) s

/-- DEVID (R140). -/
def execDevid (s : State) : Host.Outcome State Fault Refusal :=
  fieldRespond (zext32 (deviceId s.block.msg)) s

/-- SERID (R141). -/
def execSerid (s : State) : Host.Outcome State Fault Refusal :=
  fieldRespond (zext32 (serialId s.block.msg)) s

/-- LOWBAT (R142). -/
def execLowbat (s : State) : Host.Outcome State Fault Refusal :=
  fieldRespond (zext32 (lowBattery s.block.msg)) s

/-- TXINT (R143). -/
def execTxint (s : State) : Host.Outcome State Fault Refusal :=
  fieldRespond (zext32 (transmitInterval s.block.msg)) s

end Sys2Proof.Machine
end

