-- ==== Sys2Proof/Machine/Integrity.lean ====
section
/-! DEFINITION. The integrity commands VERIFY and AVAILABLE (43_integrity.md R127, R129). The checksum itself is in
Machine/Flags.lean. -/

namespace Sys2Proof.Machine

/-- VERIFY (R127). -/
def execVerify (s : State) : Host.Outcome State Fault Refusal :=
  readyGate (boolData (verifies s.block.msg)) s

/-- AVAILABLE (R129): never NOT_READY. -/
def execAvailable (s : State) : Host.Outcome State Fault Refusal :=
  respond .ok (boolData s.block.available) s

end Sys2Proof.Machine
end

