-- ==== Sys2Proof/Machine/Dispatch.lean ====
section
/-! DEFINITION. One arm per instruction: each calls its meaning. -/

namespace Sys2Proof.Machine

def exec (i : Instr) (s : State) : Host.Outcome State Fault Refusal :=
  match i with
  | .start => Sys2Proof.Machine.execStart s
  | .stop => Sys2Proof.Machine.execStop s
  | .reset => Sys2Proof.Machine.execReset s
  | .isReady => Sys2Proof.Machine.execIsReady s
  | .getStatus => Sys2Proof.Machine.execGetStatus s
  | .getScan => Sys2Proof.Machine.execGetScan s
  | .getInvcnt => Sys2Proof.Machine.execGetInvcnt s
  | .getRaw idx => Sys2Proof.Machine.execGetRaw idx s
  | .getMsg idx => Sys2Proof.Machine.execGetMsg idx s
  | .getNib idx => Sys2Proof.Machine.execGetNib idx s
  | .verify => Sys2Proof.Machine.execVerify s
  | .available => Sys2Proof.Machine.execAvailable s
  | .temp => Sys2Proof.Machine.execTemp s
  | .depth => Sys2Proof.Machine.execDepth s
  | .devid => Sys2Proof.Machine.execDevid s
  | .serid => Sys2Proof.Machine.execSerid s
  | .lowbat => Sys2Proof.Machine.execLowbat s
  | .txint => Sys2Proof.Machine.execTxint s
  | .edge now => Sys2Proof.Machine.execEdge now s

end Sys2Proof.Machine
end

