-- ==== Sys2Proof/WellFormed.lean ====
section
/-! DEFINITION. Which instruction terms the encodings of the spec can spell (30_encoding.md R57, R61). -/

namespace Sys2Proof

/-- Operand class B (R61): a byte index of `raw` or `msg`. -/
def byteIndexOk (idx : Nat) : Bool := decide (idx ≤ 8)

/-- Operand class P (R61): a nibble position of `msg`. -/
def nibblePosOk (idx : Nat) : Bool := decide (idx ≤ 17)

/-- A timestamp is TIME_W bits (R57). -/
def timestampOk (c : Config) (now : Nat) : Bool := decide (now < 2 ^ c.timeW)

/-- The term is one that a command word spells (R61), or an edge event the edge port of a block with the
parameters `c` can carry (R57). -/
def Instr.wf (c : Config) : Instr → Bool
  | .start => true
  | .stop => true
  | .reset => true
  | .isReady => true
  | .getStatus => true
  | .getScan => true
  | .getInvcnt => true
  | .getRaw idx => byteIndexOk idx
  | .getMsg idx => byteIndexOk idx
  | .getNib idx => nibblePosOk idx
  | .verify => true
  | .available => true
  | .temp => true
  | .depth => true
  | .devid => true
  | .serid => true
  | .lowbat => true
  | .txint => true
  | .edge now => timestampOk c now

end Sys2Proof
end

