-- ==== Sys2Proof/Decode.lean ====
section
/-! DEFINITION. The decoder of events, total and rejecting by name (30_encoding.md R56 to R64), and after it the
encoder, written from the same table (R60). -/

namespace Sys2Proof

/-- The operand classes of R61. -/
inductive OperandClass where
  /-- `idx` must be 0x00. -/
  | N
  /-- `idx` is a byte index, at most 8. -/
  | B
  /-- `idx` is a nibble position, at most 17. -/
  | P
  deriving DecidableEq, Repr

/-- Why a command word spells no operation: the four kinds of R64. -/
inductive Illegal where
  /-- `opc` is one of the 238 unassigned values. -/
  | unassignedOpc
  /-- A class N word with `idx ≠ 0`. -/
  | operandNotZero
  /-- A class B word with `idx > 8`. -/
  | byteIndexOutOfRange
  /-- A class P word with `idx > 17`. -/
  | nibblePosOutOfRange
  deriving DecidableEq, Repr

/-- `decode(cmd) : Op or Illegal` of R63. -/
inductive Decoded where
  /-- The word spells this operation. -/
  | op (i : Instr)
  /-- The word is illegal, for this reason. -/
  | illegal (why : Illegal)
  deriving DecidableEq, Repr

/-- Field `opc` of format H (R56). -/
def opcOf (w : CmdWord) : BitVec 8 := w.extractLsb' 8 8

/-- Field `idx` of format H (R56), an unsigned natural (R62). -/
def idxOf (w : CmdWord) : Nat := (w.extractLsb' 0 8).toNat

/-- The condition of R61 on `idx`, by class. -/
def OperandClass.admits : OperandClass → Nat → Bool
  | .N, idx => decide (idx = 0)
  | .B, idx => decide (idx ≤ 8)
  | .P, idx => decide (idx ≤ 17)

/-- What a word that breaks its class's condition is rejected for (R64). -/
def OperandClass.reject : OperandClass → Illegal
  | .N => .operandNotZero
  | .B => .byteIndexOutOfRange
  | .P => .nibblePosOutOfRange

/-- The opcode map, row by row as R60 lists it: the operand class and the operation, given its operand. Every
other value of `opc` is reserved. -/
def opcodeRow (opc : BitVec 8) : Option (OperandClass × (Nat → Instr)) :=
  match opc.toNat with
  | 0x01 => some (.N, fun _ => .start)
  | 0x02 => some (.N, fun _ => .stop)
  | 0x03 => some (.N, fun _ => .reset)
  | 0x10 => some (.N, fun _ => .isReady)
  | 0x11 => some (.N, fun _ => .getStatus)
  | 0x12 => some (.N, fun _ => .getScan)
  | 0x13 => some (.N, fun _ => .getInvcnt)
  | 0x20 => some (.B, .getRaw)
  | 0x21 => some (.B, .getMsg)
  | 0x22 => some (.P, .getNib)
  | 0x28 => some (.N, fun _ => .verify)
  | 0x29 => some (.N, fun _ => .available)
  | 0x30 => some (.N, fun _ => .temp)
  | 0x31 => some (.N, fun _ => .depth)
  | 0x32 => some (.N, fun _ => .devid)
  | 0x33 => some (.N, fun _ => .serid)
  | 0x34 => some (.N, fun _ => .lowbat)
  | 0x35 => some (.N, fun _ => .txint)
  | _ => none

/-- Decoding of a command word, total on all 65 536 words (R63). -/
def decodeCmd (w : CmdWord) : Decoded :=
  match opcodeRow (opcOf w) with
  | none => .illegal .unassignedOpc
  | some (cls, mk) => if cls.admits (idxOf w) then .op (mk (idxOf w)) else .illegal cls.reject

/-- Decoding of an event: the edge port carries nothing but EDGE (R57), the command port format H (R56). -/
def decodeEvent : Event → Decoded
  | .edge now => .op (.edge now)
  | .cmd w => decodeCmd w

/-- The operation a decoding gives, if it gives one. -/
def Decoded.toOption : Decoded → Option Instr
  | .op i => some i
  | .illegal _ => none

/-- A word of format H from its two fields (R56). -/
def cmdWord (opc : BitVec 8) (idx : Nat) : CmdWord := opc ++ BitVec.ofNat 8 idx

/-- The event that spells an operation: its command word by R60, or its edge event by R57. -/
def encode : Instr → Event
  | .start => .cmd (cmdWord 0x01 0)
  | .stop => .cmd (cmdWord 0x02 0)
  | .reset => .cmd (cmdWord 0x03 0)
  | .isReady => .cmd (cmdWord 0x10 0)
  | .getStatus => .cmd (cmdWord 0x11 0)
  | .getScan => .cmd (cmdWord 0x12 0)
  | .getInvcnt => .cmd (cmdWord 0x13 0)
  | .getRaw idx => .cmd (cmdWord 0x20 idx)
  | .getMsg idx => .cmd (cmdWord 0x21 idx)
  | .getNib idx => .cmd (cmdWord 0x22 idx)
  | .verify => .cmd (cmdWord 0x28 0)
  | .available => .cmd (cmdWord 0x29 0)
  | .temp => .cmd (cmdWord 0x30 0)
  | .depth => .cmd (cmdWord 0x31 0)
  | .devid => .cmd (cmdWord 0x32 0)
  | .serid => .cmd (cmdWord 0x33 0)
  | .lowbat => .cmd (cmdWord 0x34 0)
  | .txint => .cmd (cmdWord 0x35 0)
  | .edge now => .edge now

/-- The event that a row of spec/opcode_table.json describes by `nbits` bits of value `w`: the 16-bit rows are
words of the command port (R56), the one longer row (EDGE) is an event of the edge port (R57). The two ports are
apart in the hardware, so this choice by length is the model's (log entry 8). -/
def tableEvent (nbits w : Nat) : Event :=
  if nbits ≤ 16 then .cmd (BitVec.ofNat 16 w) else .edge w

/-- What the decoder reads from a row of spec/opcode_table.json. -/
def decodeTableWord (nbits w : Nat) : Option Instr :=
  (decodeEvent (tableEvent nbits w)).toOption

end Sys2Proof
end

