-- ==== Sys2Proof/Machine/Fetch.lean ====
section
/-! DEFINITION. How a step finds its event. Commands are not fetched from storage (20_memory.md R52): each event is
presented at a port and consumed by one step (30_encoding.md R58), in the total order of 20_memory.md R48. -/

namespace Sys2Proof.Machine

/-- The next event in the order the environment has chosen, and the state in which it has been consumed. -/
def fetch (s : State) : Option (Event × State) :=
  match s.events with
  | [] => none
  | e :: rest => some (e, { s with events := rest })

/-- No event is presented: the block waits and nothing changes. No step is triggered by time (60_exceptions.md R172)
and all state survives any length of inactivity (R176; log entry 2). -/
def idle (s : State) : Host.Outcome State Fault Refusal := .next s

/-- The environment presents the event `e` next. -/
def State.present (e : Event) (s : State) : State := { s with events := e :: s.events }

end Sys2Proof.Machine
end

