-- ==== Sys2Proof/Machine/Step.lean ====
section
/-! DEFINITION. The step function (00_scope.md R13; 30_encoding.md R58) and the presentation of one event. -/

namespace Sys2Proof.Machine

/-- One step consumes exactly one event: an operation runs its meaning, an illegal word is answered ILLEGAL
(60_exceptions.md R162). With no event presented the block waits. -/
def step (s : State) : Host.Outcome State Fault Refusal :=
  match fetch s with
  | none => idle s
  | some (e, t) =>
    match decodeEvent e with
    | .op i => exec i t
    | .illegal _ => respondIllegal t

/-- `s` with the event that a row of spec/opcode_table.json describes presented as the very next one (log entries 8
and 9). -/
def State.withFetchWord (s : State) (nbits w : Nat) : State := s.present (tableEvent nbits w)

end Sys2Proof.Machine
end

