-- ==== Sys2Proof/Safety.lean ====
section
/-! DEFINITION. What holds of every reachable state (10_state.md R34), and what a safe run is: one that never stops
(60_exceptions.md R160, R176). -/

namespace Sys2Proof.Machine

/-- The conditions of 10_state.md R34, (a) to (f), and the widths of R20. -/
structure Block.Inv (c : Config) (b : Block) : Prop where
  /-- (a) -/
  cursor_le : b.cursor ≤ 144
  /-- (b) Seeking: nothing recorded yet. -/
  seeking : b.phase = .seeking →
    b.cursor = 0 ∧ b.running = true ∧ b.scanTiming = 0 ∧ ∀ i : Fin 144, b.tbuf[i] = 0
  /-- (c) the capture is complete exactly when the cursor is 144. -/
  complete_iff : b.running = false ↔ b.cursor = 144
  /-- (c) a complete capture is in Recording. -/
  complete_phase : b.running = false → b.phase = .recording
  /-- (d) the decode registers of a complete capture hold the decode of the timing buffer. -/
  decoded : b.running = false →
    b.sym = classifyAll c b.tbuf ∧ b.raw = packBytes b.sym ∧ b.msg = packBytes (reverseGroups b.sym) ∧
      b.invCount = countInvalid b.sym
  /-- (e) the decode registers are clear while a capture is in progress. -/
  clear : b.running = true →
    (∀ k : Fin 72, b.sym[k] = .s0) ∧ (∀ j : Fin 9, b.raw[j] = 0x00) ∧ (∀ j : Fin 9, b.msg[j] = 0x00) ∧
      b.invCount = 0
  /-- (f) entries at or above the cursor are still clear. -/
  unrecorded : b.running = true → b.phase = .recording → ∀ i : Fin 144, b.cursor ≤ i.val → b.tbuf[i] = 0
  /-- The width of `lastEdgeTime`. -/
  lastEdgeTime_lt : b.lastEdgeTime < 2 ^ c.timeW
  /-- The width of `scanTiming`. -/
  scanTiming_lt : b.scanTiming < 2 ^ c.timeW
  /-- The width of a timing-buffer entry. -/
  tbuf_lt : ∀ i : Fin 144, b.tbuf[i] < 2 ^ c.timeW
  /-- `invCount` is a natural in [0, 72]. -/
  invCount_le : b.invCount ≤ 72

/-- The invariant of the machine: TIME_W is at least 1 (00_scope.md R8) and the record meets R34. -/
structure Inv (s : State) : Prop where
  timeW_pos : s.cfg.wf
  block : s.block.Inv s.cfg

/-- A step from this state does not stop: it answers a next state. -/
abbrev Safe (s : State) : Prop := ∃ t, step s = .next t

/-- The event is a command word that restarts the capture: START or RESET, the only steps that clear it
(20_memory.md R53). -/
def restarts (e : Event) : Bool := decide (decodeEvent e = .op .start) || decide (decodeEvent e = .op .reset)

/-- No event still to come restarts the capture. -/
def State.noRestart (s : State) : Bool := s.events.all fun e => !restarts e

/-- The event is one of the edge agent's (60_exceptions.md R173). -/
def isEdge : Event → Bool
  | .edge _ => true
  | .cmd _ => false

/-- The timestamps of the edges among some events, in delivery order. -/
def edgeTimes : List Event → List Nat
  | [] => []
  | .edge now :: rest => now :: edgeTimes rest
  | .cmd _ :: rest => edgeTimes rest

/-- The operation is one of the fifteen read commands: every command but START, STOP and RESET
(10_state.md R37; 20_memory.md R46). -/
def isRead : Instr → Bool
  | .start => false
  | .stop => false
  | .reset => false
  | .isReady => true
  | .getStatus => true
  | .getScan => true
  | .getInvcnt => true
  | .getRaw _ => true
  | .getMsg _ => true
  | .getNib _ => true
  | .verify => true
  | .available => true
  | .temp => true
  | .depth => true
  | .devid => true
  | .serid => true
  | .lowbat => true
  | .txint => true
  | .edge _ => false

/-- The operation responds NOT_READY while a capture is in progress: the list of 60_exceptions.md R163. -/
def gatedByRunning : Instr → Bool
  | .start => false
  | .stop => false
  | .reset => false
  | .isReady => false
  | .getStatus => false
  | .getScan => false
  | .getInvcnt => true
  | .getRaw _ => true
  | .getMsg _ => true
  | .getNib _ => true
  | .verify => true
  | .available => false
  | .temp => true
  | .depth => true
  | .devid => true
  | .serid => true
  | .lowbat => true
  | .txint => true
  | .edge _ => false

/-- The operation responds INVALID when the checksum of a complete capture fails: the list of
60_exceptions.md R164. -/
def gatedByChecksum : Instr → Bool
  | .start => false
  | .stop => false
  | .reset => false
  | .isReady => false
  | .getStatus => false
  | .getScan => false
  | .getInvcnt => false
  | .getRaw _ => false
  | .getMsg _ => false
  | .getNib _ => false
  | .verify => false
  | .available => false
  | .temp => true
  | .depth => true
  | .devid => true
  | .serid => true
  | .lowbat => true
  | .txint => true
  | .edge _ => false

/-- The class N command word with operation code `opc` spells `i`, and with any other `idx` it is illegal
(30_encoding.md R60, R61). -/
def SpelledByClassN (opc : BitVec 8) (i : Instr) : Prop :=
  decodeCmd (opc ++ 0x00#8) = .op i ∧
    ∀ idx : BitVec 8, idx ≠ 0x00#8 → decodeCmd (opc ++ idx) = .illegal .operandNotZero

/-- What a host can still read of a completed capture stays as it is: the fields that 20_memory.md R49 and
70_reset_and_hazards.md R192 name. -/
structure Block.SameCapture (b b' : Block) : Prop where
  running : b'.running = b.running
  phase : b'.phase = b.phase
  cursor : b'.cursor = b.cursor
  scanTiming : b'.scanTiming = b.scanTiming
  tbuf : b'.tbuf = b.tbuf
  sym : b'.sym = b.sym
  raw : b'.raw = b.raw
  msg : b'.msg = b.msg
  invCount : b'.invCount = b.invCount

end Sys2Proof.Machine
end

