-- ==== Sys2Proof/Certificates/Slice0/Obligations.lean ====
section
/-! DEFINITION. The statements about WTLM-CORE, from the numbered rules of spec/. -/

open Sys2Proof Sys2Proof.Machine

/-- For every choice of the open parameters, the power-on state has bound = 0, running = 1, phase = Seeking, cursor
= 0, lastEdgeTime = 0 and every other field 0 (sym all S0), and the response port has returned nothing. State.reset
is the power-on state of some block instance with TIME_W at least 1. Formalises R180. -/
def Obligations.PowerOnStateIsTheSpecs : Prop :=
  (∀ c : Config,
    (State.powerOn c).block =
      { bound := false, running := true, phase := .seeking, cursor := 0, lastEdgeTime := 0, scanTiming := 0,
        tbuf := Vector.replicate 144 0, sym := Vector.replicate 72 .s0, raw := Vector.replicate 9 0,
        msg := Vector.replicate 9 0, invCount := 0 } ∧
    (State.powerOn c).responses = [] ∧ (State.powerOn c).cfg = c) ∧
  ∃ c : Config, 1 ≤ c.timeW ∧ State.reset = State.powerOn c

/-- The invariant Inv (conditions (a) to (f) of 10_state.md section 3 and the widths of section 1) holds of
State.reset, and of the power-on state of every block instance whose TIME_W is at least 1. Derived from 10_state.md
section 3; 70_reset_and_hazards.md section 1. -/
def Obligations.ResetMeetsTheInvariant : Prop :=
  Inv State.reset ∧ ∀ c : Config, c.wf → Inv (State.powerOn c)

/-- When the next event decodes to an operation i, step at that state is exec of i at the state with that event
consumed and nothing else changed. An edge event decodes to EDGE with its timestamp; a command word decodes by
decodeCmd. An event presented next by withFetchWord is the one the step runs: these last two clauses are the model's
choice, not the spec's (log entry 8: a row of at most 16 bits is a command word, a longer one an edge event; log
entry 9: withFetchWord presents an event next). Derived from 30_encoding.md section 2; 20_memory.md section 4. -/
def Obligations.StepRunsTheDecodedInstruction : Prop :=
  (∀ (s : State) (e : Event) (rest : List Event) (i : Instr), s.events = e :: rest → decodeEvent e = .op i →
    step s = exec i { s with events := rest }) ∧
  (∀ now : Nat, decodeEvent (.edge now) = .op (.edge now)) ∧
  (∀ w : CmdWord, decodeEvent (.cmd w) = decodeCmd w) ∧
  (∀ (s : State) (w : CmdWord) (i : Instr), decodeCmd w = .op i →
    step (s.withFetchWord 16 w.toNat) = exec i s) ∧
  ∀ (s : State) (now : Nat), step (s.withFetchWord 32 now) = exec (.edge now) s

/-- From every state a step answers a next state: there is no fault and no refusal. That a step with no event
presented leaves the whole state as it is, is the model's reading of 'no step is triggered by time' (log entry 2).
Derived from 60_exceptions.md section 1; 60_exceptions.md section 5. -/
def Obligations.EveryStepAnswersANextState : Prop :=
  (∀ s : State, Safe s) ∧
  (∀ (s : State) (i : Instr), ∃ t, exec i s = .next t) ∧
  ∀ s : State, s.events = [] → step s = .next s

/-- A command word is illegal exactly when its opc is unassigned (238 values), or its class is N and idx is not 0,
or its class is B and idx is above 8, or its class is P and idx is above 17. A step on an illegal word returns the
response ILLEGAL with data 0 and changes nothing else: no field of the record, not the configuration, not the later
events. Formalises R64, R162. -/
def Obligations.IllegalWordsAndTheirAnswer : Prop :=
  (∀ w : CmdWord, (∃ why, decodeCmd w = .illegal why) ↔
    (opcOf w).toNat ∉ [0x01, 0x02, 0x03, 0x10, 0x11, 0x12, 0x13, 0x20, 0x21, 0x22, 0x28, 0x29, 0x30, 0x31, 0x32,
      0x33, 0x34, 0x35] ∨
    ((opcOf w).toNat ∈ [0x01, 0x02, 0x03, 0x10, 0x11, 0x12, 0x13, 0x28, 0x29, 0x30, 0x31, 0x32, 0x33, 0x34, 0x35] ∧
      idxOf w ≠ 0) ∨
    ((opcOf w).toNat ∈ [0x20, 0x21] ∧ 8 < idxOf w) ∨
    ((opcOf w).toNat = 0x22 ∧ 17 < idxOf w)) ∧
  ((List.range 256).filter fun n => n ∉ [0x01, 0x02, 0x03, 0x10, 0x11, 0x12, 0x13, 0x20, 0x21, 0x22, 0x28, 0x29,
      0x30, 0x31, 0x32, 0x33, 0x34, 0x35]).length = 238 ∧
  ∀ (s : State) (w : CmdWord) (why : Illegal) (rest : List Event), s.events = .cmd w :: rest →
    decodeCmd w = .illegal why →
    step s = .next { s with events := rest, responses := s.responses ++ [⟨.illegal, 0⟩] }

/-- There is a list of 15·1 + 2·9 + 1·18 = 51 different words such that a word decodes to an operation exactly when
it is in the list; every other word is illegal. Derived from 30_encoding.md section 4. -/
def Obligations.ExactlyFiftyOneWordsAreOperations : Prop :=
  ∃ legal : List CmdWord, legal.Nodup ∧ legal.length = 15 * 1 + 2 * 9 + 1 * 18 ∧
    ∀ w : CmdWord, ((∃ i, decodeCmd w = .op i) ↔ w ∈ legal) ∧ ((∃ why, decodeCmd w = .illegal why) ↔ w ∉ legal)

/-- The words of the opcode map, with the least and the greatest index for the indexed commands, decode to the
operations they stand for; the first words outside each range are illegal. Derived from 30_encoding.md section 3;
95_test_vectors.md section 2.1. -/
def Obligations.SpelledWordsDecode : Prop :=
  decodeCmd 0x0100 = .op .start ∧ decodeCmd 0x0200 = .op .stop ∧ decodeCmd 0x0300 = .op .reset ∧
  decodeCmd 0x1000 = .op .isReady ∧ decodeCmd 0x1100 = .op .getStatus ∧ decodeCmd 0x1200 = .op .getScan ∧
  decodeCmd 0x1300 = .op .getInvcnt ∧
  decodeCmd 0x2000 = .op (.getRaw 0) ∧ decodeCmd 0x2008 = .op (.getRaw 8) ∧
  decodeCmd 0x2009 = .illegal .byteIndexOutOfRange ∧
  decodeCmd 0x2100 = .op (.getMsg 0) ∧ decodeCmd 0x2108 = .op (.getMsg 8) ∧
  decodeCmd 0x2109 = .illegal .byteIndexOutOfRange ∧
  decodeCmd 0x2200 = .op (.getNib 0) ∧ decodeCmd 0x2211 = .op (.getNib 17) ∧
  decodeCmd 0x2212 = .illegal .nibblePosOutOfRange ∧
  decodeCmd 0x2800 = .op .verify ∧ decodeCmd 0x2900 = .op .available ∧
  decodeCmd 0x3000 = .op .temp ∧ decodeCmd 0x3100 = .op .depth ∧ decodeCmd 0x3200 = .op .devid ∧
  decodeCmd 0x3300 = .op .serid ∧ decodeCmd 0x3400 = .op .lowbat ∧ decodeCmd 0x3500 = .op .txint ∧
  decodeCmd 0x1001 = .illegal .operandNotZero ∧ decodeCmd 0x0000 = .illegal .unassignedOpc ∧
  decodeCmd 0x3600 = .illegal .unassignedOpc ∧ decodeCmd 0xFFFF = .illegal .unassignedOpc

/-- For every event the ports of a block instance can carry and every operation i: the event decodes to i if and
only if i is well formed and its encoding is that event. So every well-formed operation, with every operand value,
comes back from its encoding, and no two words spell one operation. Derived from 30_encoding.md section 2;
30_encoding.md section 3; 30_encoding.md section 4. -/
def Obligations.DecodeAndEncodeAgree : Prop :=
  ∀ (c : Config) (e : Event) (i : Instr), (∀ now, e = .edge now → now < 2 ^ c.timeW) →
    (decodeEvent e = .op i ↔ i.wf c = true ∧ encode i = e)

/-- The response word is the two status bits (OK 00, NOT_READY 01, INVALID 10, ILLEGAL 11) above the 32 data bits. A
step on any command word returns exactly one response, whose data is 0 unless its status is OK. A step on an edge
event returns none. Formalises R59. -/
def Obligations.ResponseFormat : Prop :=
  (∀ d : Data, (Response.mk .ok d).word = 0b00#2 ++ d ∧ (Response.mk .notReady d).word = 0b01#2 ++ d ∧
    (Response.mk .invalid d).word = 0b10#2 ++ d ∧ (Response.mk .illegal d).word = 0b11#2 ++ d) ∧
  (∀ (s : State) (w : CmdWord) (rest : List Event), s.events = .cmd w :: rest →
    ∃ (t : State) (r : Response), step s = .next t ∧ t.events = rest ∧ t.responses = s.responses ++ [r] ∧
      (r.status ≠ .ok → r.data = 0)) ∧
  ∀ (s : State) (now : Nat) (rest : List Event), s.events = .edge now :: rest →
    ∃ t : State, step s = .next t ∧ t.events = rest ∧ t.responses = s.responses

/-- A step on a command word returns one response. It is ILLEGAL exactly when the word is illegal; else NOT_READY
when the command is one of the eleven gated ones and running = 1; else INVALID when it is one of the six field
commands and the checksum fails; else OK. Unless it is OK, nothing but the response and the consumed word changes.
VERIFY of a failing checksum is OK 0. Formalises R163, R164, R165. -/
def Obligations.StatusPrecedence : Prop :=
  ∀ (s : State) (w : CmdWord) (rest : List Event), s.events = .cmd w :: rest →
    ∃ (t : State) (r : Response), step s = .next t ∧ t.responses = s.responses ++ [r] ∧
      (∀ why, decodeCmd w = .illegal why → r = ⟨.illegal, 0⟩) ∧
      (∀ i, decodeCmd w = .op i →
        (gatedByRunning i = true ∧ s.block.running = true → r = ⟨.notReady, 0⟩) ∧
        (gatedByChecksum i = true ∧ s.block.running = false ∧ verifies s.block.msg = false → r = ⟨.invalid, 0⟩) ∧
        (¬ (gatedByRunning i = true ∧ s.block.running = true) →
          ¬ (gatedByChecksum i = true ∧ verifies s.block.msg = false) → r.status = .ok) ∧
        (i = .verify → s.block.running = false → verifies s.block.msg = false → r = ⟨.ok, 0⟩)) ∧
      (r.status ≠ .ok → t = { s with events := rest, responses := s.responses ++ [r] })

/-- The word 0x0100 spells START and any other idx with opc 0x01 is illegal. From every state START answers a next
state in which bound = 1, running = 1, phase = Seeking, cursor, scanTiming, tbuf, raw, msg and invCount are 0, sym
is all S0, lastEdgeTime is unchanged, the response is OK 0, and nothing else changes. While bound, START is RESET.
Formalises R79, R80. -/
def Obligations.StartBindsAndClears : Prop :=
  SpelledByClassN 0x01 .start ∧
  (∀ s : State, exec .start s = .next { s with
    block := {
        bound := true, running := true, phase := .seeking, cursor := 0, lastEdgeTime := s.block.lastEdgeTime,
        scanTiming := 0, tbuf := Vector.replicate 144 0, sym := Vector.replicate 72 .s0,
        raw := Vector.replicate 9 0, msg := Vector.replicate 9 0, invCount := 0 }
    responses := s.responses ++ [⟨.ok, 0⟩] }) ∧
  (∀ s : State, s.block.clearCapture = { s.block with
    running := true, phase := .seeking, cursor := 0, scanTiming := 0, tbuf := Vector.replicate 144 0,
    sym := Vector.replicate 72 .s0, raw := Vector.replicate 9 0, msg := Vector.replicate 9 0, invCount := 0 }) ∧
  ∀ s : State, s.block.bound = true → exec .start s = exec .reset s

/-- The word 0x0300 spells RESET and any other idx with opc 0x03 is illegal. From every state RESET answers a next
state with the capture cleared, bound and lastEdgeTime unchanged, the response OK 0, and nothing else changed. After
it, IS_READY is 0 and GET_MSG is NOT_READY. Formalises R82. -/
def Obligations.ResetClearsTheCapture : Prop :=
  SpelledByClassN 0x03 .reset ∧
  ∀ s : State, ∃ t : State, exec .reset s = .next t ∧
    t = { s with
      block := {
        bound := s.block.bound, running := true, phase := .seeking, cursor := 0, lastEdgeTime := s.block.lastEdgeTime,
        scanTiming := 0, tbuf := Vector.replicate 144 0, sym := Vector.replicate 72 .s0,
        raw := Vector.replicate 9 0, msg := Vector.replicate 9 0, invCount := 0 }
      responses := s.responses ++ [⟨.ok, 0⟩] } ∧
    exec .isReady t = .next { t with responses := t.responses ++ [⟨.ok, 0⟩] } ∧
    exec (.getMsg 0) t = .next { t with responses := t.responses ++ [⟨.notReady, 0⟩] }

/-- The word 0x0200 spells STOP and any other idx with opc 0x02 is illegal. From every state STOP answers a next
state in which bound = 0, the response is OK 0, and every other field is unchanged: an unfinished capture stays
running, a completed one stays readable. Formalises R81. -/
def Obligations.StopUnbindsOnly : Prop :=
  SpelledByClassN 0x02 .stop ∧
  (∀ s : State, exec .stop s = .next { s with
    block := { s.block with bound := false }
    responses := s.responses ++ [⟨.ok, 0⟩] }) ∧
  (∀ s t : State, s.block.running = true → exec .stop s = .next t →
    exec .isReady t = .next { t with responses := t.responses ++ [⟨.ok, 0⟩] }) ∧
  ∀ (s t : State) (b : Fin 9), s.block.running = false → exec .stop s = .next t →
    exec (.getMsg b) t = .next { t with responses := t.responses ++ [⟨.ok, s.block.msg[b].setWidth 32⟩] }

/-- The word 0x1000 spells IS_READY and any other idx with opc 0x10 is illegal. From every state IS_READY answers OK
with data 1 when running = 0 and 0 when running = 1, and writes nothing. ready_o is NOT running. Formalises R83. -/
def Obligations.IsReadyReportsNotRunning : Prop :=
  SpelledByClassN 0x10 .isReady ∧
  (∀ s : State, exec .isReady s = .next { s with
    responses := s.responses ++ [⟨.ok, if s.block.running = true then 0 else 1⟩] }) ∧
  ∀ s : State, s.readyO = true ↔ s.block.running = false

/-- The word 0x1100 spells GET_STATUS and any other idx with opc 0x11 is illegal. From every state it answers OK
with bit 0 running, bit 1 phase (1 = Recording), bit 2 bound, bits 7:3 zero, bits 15:8 the cursor, bits 31:16 zero,
and writes nothing. In every state that meets the invariant bits 15:8 are 0x90 exactly when the capture has
completed. Formalises R84. -/
def Obligations.GetStatusLayout : Prop :=
  SpelledByClassN 0x11 .getStatus ∧
  ∀ s : State, ∃ d : Data, exec .getStatus s = .next { s with responses := s.responses ++ [⟨.ok, d⟩] } ∧
    d.getLsbD 0 = s.block.running ∧ d.getLsbD 1 = decide (s.block.phase = .recording) ∧
    d.getLsbD 2 = s.block.bound ∧ d.extractLsb' 3 5 = 0 ∧ d.extractLsb' 8 8 = BitVec.ofNat 8 s.block.cursor ∧
    d.extractLsb' 16 16 = 0 ∧
    (Inv s → (d.extractLsb' 8 8 = 0x90 ↔ s.block.running = false))

/-- The word 0x1200 spells GET_SCAN and any other idx with opc 0x12 is illegal. From every state it answers OK with
scanTiming mod 2^32 and writes nothing. In every state that meets the invariant it reads 0 in Seeking. Formalises
R85. -/
def Obligations.GetScanReturnsTheScanningTiming : Prop :=
  SpelledByClassN 0x12 .getScan ∧
  ∀ s : State, ∃ d : Data, exec .getScan s = .next { s with responses := s.responses ++ [⟨.ok, d⟩] } ∧
    d.toNat = s.block.scanTiming % 2 ^ 32 ∧ (Inv s → s.block.phase = .seeking → d = 0)

/-- With opc 0x20 an idx of 0 to 8 spells the command and a greater one is illegal. From every state the command
answers ILLEGAL 0 when idx is above 8; NOT_READY 0 while running = 1; else OK with raw[idx] zero-extended, whether
or not the checksum verifies; it writes nothing. No word decodes to a term with idx above 8: that exec answers it as
the step answers its word is the model's reading (log entry 10). Derived from 42_assembler.md section 3;
30_encoding.md section 4; 20_memory.md section 3. -/
def Obligations.GetRawReadsOneByte : Prop :=
  (∀ idx : BitVec 8, (idx.toNat ≤ 8 → decodeCmd (0x20#8 ++ idx) = .op (.getRaw idx.toNat)) ∧
    (8 < idx.toNat → decodeCmd (0x20#8 ++ idx) = .illegal .byteIndexOutOfRange)) ∧
  (∀ (s : State) (idx : Nat), 8 < idx →
    exec (.getRaw idx) s = .next { s with responses := s.responses ++ [⟨.illegal, 0⟩] }) ∧
  (∀ (s : State) (idx : Nat), idx ≤ 8 → s.block.running = true →
    exec (.getRaw idx) s = .next { s with responses := s.responses ++ [⟨.notReady, 0⟩] }) ∧
  ∀ (s : State) (b : Fin 9), s.block.running = false →
    exec (.getRaw b) s = .next { s with responses := s.responses ++ [⟨.ok, s.block.raw[b].setWidth 32⟩] }

/-- With opc 0x21 an idx of 0 to 8 spells the command and a greater one is illegal. From every state the command
answers ILLEGAL 0 when idx is above 8; NOT_READY 0 while running = 1; else OK with msg[idx] zero-extended, whether
or not the checksum verifies; it writes nothing. No word decodes to a term with idx above 8: that exec answers it as
the step answers its word is the model's reading (log entry 10). Derived from 42_assembler.md section 3;
30_encoding.md section 4; 20_memory.md section 3. -/
def Obligations.GetMsgReadsOneByte : Prop :=
  (∀ idx : BitVec 8, (idx.toNat ≤ 8 → decodeCmd (0x21#8 ++ idx) = .op (.getMsg idx.toNat)) ∧
    (8 < idx.toNat → decodeCmd (0x21#8 ++ idx) = .illegal .byteIndexOutOfRange)) ∧
  (∀ (s : State) (idx : Nat), 8 < idx →
    exec (.getMsg idx) s = .next { s with responses := s.responses ++ [⟨.illegal, 0⟩] }) ∧
  (∀ (s : State) (idx : Nat), idx ≤ 8 → s.block.running = true →
    exec (.getMsg idx) s = .next { s with responses := s.responses ++ [⟨.notReady, 0⟩] }) ∧
  ∀ (s : State) (b : Fin 9), s.block.running = false →
    exec (.getMsg b) s = .next { s with responses := s.responses ++ [⟨.ok, s.block.msg[b].setWidth 32⟩] }

/-- The word 0x1300 spells GET_INVCNT and any other idx with opc 0x13 is illegal. It answers NOT_READY 0 while
running = 1, else OK with invCount zero-extended, and writes nothing. Formalises R114. -/
def Obligations.GetInvcntReadsTheCount : Prop :=
  SpelledByClassN 0x13 .getInvcnt ∧
  (∀ s : State, s.block.running = true →
    exec .getInvcnt s = .next { s with responses := s.responses ++ [⟨.notReady, 0⟩] }) ∧
  ∀ s : State, s.block.running = false → ∃ d : Data,
    exec .getInvcnt s = .next { s with responses := s.responses ++ [⟨.ok, d⟩] } ∧
    (s.block.invCount ≤ 72 → d.toNat = s.block.invCount)

/-- With opc 0x22 an idx of 0 to 17 spells GET_NIB and a greater one is illegal. It answers ILLEGAL 0 when idx is
above 17; NOT_READY 0 while running = 1; else OK with the nibble at that position zero-extended, with no checksum
gate; it writes nothing. Positions 16 and 17 are the high and low nibble of byte 8. No word decodes to a term with
idx above 17: that exec answers it as the step answers its word is the model's reading (log entry 10). Derived from
44_fields.md section 1; 30_encoding.md section 4; 20_memory.md section 3. -/
def Obligations.GetNibReadsOneNibble : Prop :=
  (∀ idx : BitVec 8, (idx.toNat ≤ 17 → decodeCmd (0x22#8 ++ idx) = .op (.getNib idx.toNat)) ∧
    (17 < idx.toNat → decodeCmd (0x22#8 ++ idx) = .illegal .nibblePosOutOfRange)) ∧
  (∀ (s : State) (idx : Nat), 17 < idx →
    exec (.getNib idx) s = .next { s with responses := s.responses ++ [⟨.illegal, 0⟩] }) ∧
  (∀ (s : State) (idx : Nat), idx ≤ 17 → s.block.running = true →
    exec (.getNib idx) s = .next { s with responses := s.responses ++ [⟨.notReady, 0⟩] }) ∧
  (∀ (s : State) (p : Fin 18), s.block.running = false →
    exec (.getNib p) s =
      .next { s with responses := s.responses ++ [⟨.ok, (nibble s.block.msg p).setWidth 32⟩] }) ∧
  ∀ m : Vector Byte 9, nibble m 16 = m[8].extractLsb' 4 4 ∧ nibble m 17 = m[8].extractLsb' 0 4

/-- For every 9-byte message, checksum is the exclusive OR of bytes 0 to 7, and the message verifies exactly when
that equals byte 8. Byte 8 is no part of the fold. Formalises R125, R126. -/
def Obligations.ChecksumIsTheXorFold : Prop :=
  ∀ m : Vector Byte 9,
    checksum m = m[0] ^^^ m[1] ^^^ m[2] ^^^ m[3] ^^^ m[4] ^^^ m[5] ^^^ m[6] ^^^ m[7] ∧
    (verifies m = true ↔ m[0] ^^^ m[1] ^^^ m[2] ^^^ m[3] ^^^ m[4] ^^^ m[5] ^^^ m[6] ^^^ m[7] = m[8])

/-- The word 0x2800 spells VERIFY and any other idx with opc 0x28 is illegal. It answers NOT_READY 0 while running =
1, else OK with 1 when the message verifies and 0 when it does not, and writes nothing. Formalises R127. -/
def Obligations.VerifyReportsTheChecksum : Prop :=
  SpelledByClassN 0x28 .verify ∧
  (∀ s : State, s.block.running = true →
    exec .verify s = .next { s with responses := s.responses ++ [⟨.notReady, 0⟩] }) ∧
  ∀ s : State, s.block.running = false →
    exec .verify s = .next { s with
      responses := s.responses ++ [⟨.ok, if verifies s.block.msg = true then 1 else 0⟩] }

/-- The word 0x2900 spells AVAILABLE and any other idx with opc 0x29 is illegal. From every state it answers OK with
1 when running = 0 and the message verifies, and with 0 otherwise, and writes nothing. Formalises R128, R129. -/
def Obligations.AvailableReportsAVerifiedCapture : Prop :=
  SpelledByClassN 0x29 .available ∧
  (∀ b : Block, b.available = true ↔ b.running = false ∧ verifies b.msg = true) ∧
  ∀ s : State, exec .available s = .next { s with
    responses := s.responses ++ [⟨.ok, if s.block.running = false ∧ verifies s.block.msg = true then 1 else 0⟩] }

/-- The word 0x3000 spells the command and any other idx with opc 0x30 is illegal. It answers NOT_READY 0 while
running = 1; INVALID 0 when running = 0 and the checksum fails; else OK with t - 400 when 400 ≤ t ≤ 1000 and -40
otherwise, as a two's-complement word, where t = (n13 << 8) | (n12 << 4) | n10. It writes nothing. Formalises R138.
-/
def Obligations.TempReturnsTheTemperature : Prop :=
  SpelledByClassN 0x30 .temp ∧
  (∀ s : State, s.block.running = true →
    exec .temp s = .next { s with responses := s.responses ++ [⟨.notReady, 0⟩] }) ∧
  (∀ s : State, s.block.running = false → verifies s.block.msg = false →
    exec .temp s = .next { s with responses := s.responses ++ [⟨.invalid, 0⟩] }) ∧
  ∀ s : State, s.block.running = false → verifies s.block.msg = true → ∃ d : Data,
    exec .temp s = .next { s with responses := s.responses ++ [⟨.ok, d⟩] } ∧
    ∀ t : Nat, t = (nibble s.block.msg 13).toNat <<< 8 ||| (nibble s.block.msg 12).toNat <<< 4 |||
        (nibble s.block.msg 10).toNat →
      (400 ≤ t ∧ t ≤ 1000 → d.toInt = (t : Int) - 400) ∧ (¬ (400 ≤ t ∧ t ≤ 1000) → d.toInt = -40)

/-- The word 0x3100 spells the command and any other idx with opc 0x31 is illegal. It answers NOT_READY 0 while
running = 1; INVALID 0 when running = 0 and the checksum fails; else OK with (n7 << 8) | (n6 << 4) | n8, with no
range check; its byte form, msg[3] low nibble, msg[3] high nibble, msg[4] high nibble, is the spec's own inference
(44_fields.md, DEPTH corner cases). It writes nothing. Derived from 44_fields.md section 3; 44_fields.md section 2;
44_fields.md section 1. -/
def Obligations.DepthReturnsTheDepth : Prop :=
  SpelledByClassN 0x31 .depth ∧
  (∀ s : State, s.block.running = true →
    exec .depth s = .next { s with responses := s.responses ++ [⟨.notReady, 0⟩] }) ∧
  (∀ s : State, s.block.running = false → verifies s.block.msg = false →
    exec .depth s = .next { s with responses := s.responses ++ [⟨.invalid, 0⟩] }) ∧
  ∀ s : State, s.block.running = false → verifies s.block.msg = true → ∃ d : Data,
    exec .depth s = .next { s with responses := s.responses ++ [⟨.ok, d⟩] } ∧
    d.toNat = (nibble s.block.msg 7).toNat <<< 8 ||| (nibble s.block.msg 6).toNat <<< 4 |||
      (nibble s.block.msg 8).toNat ∧
    d = 0#20 ++ s.block.msg[3].extractLsb' 0 4 ++ s.block.msg[3].extractLsb' 4 4 ++ s.block.msg[4].extractLsb' 4 4

/-- The word 0x3200 spells the command and any other idx with opc 0x32 is illegal. It answers NOT_READY 0 while
running = 1; INVALID 0 when running = 0 and the checksum fails; else OK with (n4 << 4) | n5; that this is msg[2]
exactly is the spec's own inference (44_fields.md, DEVID corner cases). It writes nothing. Derived from 44_fields.md
section 3; 44_fields.md section 2; 44_fields.md section 1. -/
def Obligations.DevidReturnsTheDeviceId : Prop :=
  SpelledByClassN 0x32 .devid ∧
  (∀ s : State, s.block.running = true →
    exec .devid s = .next { s with responses := s.responses ++ [⟨.notReady, 0⟩] }) ∧
  (∀ s : State, s.block.running = false → verifies s.block.msg = false →
    exec .devid s = .next { s with responses := s.responses ++ [⟨.invalid, 0⟩] }) ∧
  ∀ s : State, s.block.running = false → verifies s.block.msg = true → ∃ d : Data,
    exec .devid s = .next { s with responses := s.responses ++ [⟨.ok, d⟩] } ∧
    d.toNat = (nibble s.block.msg 4).toNat <<< 4 ||| (nibble s.block.msg 5).toNat ∧
    d = s.block.msg[2].setWidth 32

/-- The word 0x3300 spells the command and any other idx with opc 0x33 is illegal. It answers NOT_READY 0 while
running = 1; INVALID 0 when running = 0 and the checksum fails; else OK with (n3 << 4) | n2; that this is msg[1]
with its nibbles swapped is the spec's own inference (44_fields.md, SERID corner cases). It writes nothing. Derived
from 44_fields.md section 3; 44_fields.md section 2; 44_fields.md section 1. -/
def Obligations.SeridReturnsTheSerialId : Prop :=
  SpelledByClassN 0x33 .serid ∧
  (∀ s : State, s.block.running = true →
    exec .serid s = .next { s with responses := s.responses ++ [⟨.notReady, 0⟩] }) ∧
  (∀ s : State, s.block.running = false → verifies s.block.msg = false →
    exec .serid s = .next { s with responses := s.responses ++ [⟨.invalid, 0⟩] }) ∧
  ∀ s : State, s.block.running = false → verifies s.block.msg = true → ∃ d : Data,
    exec .serid s = .next { s with responses := s.responses ++ [⟨.ok, d⟩] } ∧
    d.toNat = (nibble s.block.msg 3).toNat <<< 4 ||| (nibble s.block.msg 2).toNat ∧
    d = 0#24 ++ s.block.msg[1].extractLsb' 0 4 ++ s.block.msg[1].extractLsb' 4 4

/-- The word 0x3400 spells the command and any other idx with opc 0x34 is illegal. It answers NOT_READY 0 while
running = 1; INVALID 0 when running = 0 and the checksum fails; else OK with n9, the low nibble of msg[4], with no
interpretation. It writes nothing. Formalises R142. -/
def Obligations.LowbatReturnsTheRawNibble : Prop :=
  SpelledByClassN 0x34 .lowbat ∧
  (∀ s : State, s.block.running = true →
    exec .lowbat s = .next { s with responses := s.responses ++ [⟨.notReady, 0⟩] }) ∧
  (∀ s : State, s.block.running = false → verifies s.block.msg = false →
    exec .lowbat s = .next { s with responses := s.responses ++ [⟨.invalid, 0⟩] }) ∧
  ∀ s : State, s.block.running = false → verifies s.block.msg = true → ∃ d : Data,
    exec .lowbat s = .next { s with responses := s.responses ++ [⟨.ok, d⟩] } ∧
    d.toNat = (nibble s.block.msg 9).toNat ∧ d = (s.block.msg[4].extractLsb' 0 4).setWidth 32

/-- The word 0x3500 spells the command and any other idx with opc 0x35 is illegal. It answers NOT_READY 0 while
running = 1; INVALID 0 when running = 0 and the checksum fails; else OK with 5 when n11 is odd, else 30 when n11 is
at least 8, else 180 when n11 is 0, else 0 (unknown), where n11 = msg[5] low nibble. It writes nothing. Formalises
R143. -/
def Obligations.TxintReturnsTheInterval : Prop :=
  SpelledByClassN 0x35 .txint ∧
  (∀ s : State, s.block.running = true →
    exec .txint s = .next { s with responses := s.responses ++ [⟨.notReady, 0⟩] }) ∧
  (∀ s : State, s.block.running = false → verifies s.block.msg = false →
    exec .txint s = .next { s with responses := s.responses ++ [⟨.invalid, 0⟩] }) ∧
  ∀ s : State, s.block.running = false → verifies s.block.msg = true → ∃ d : Data,
    exec .txint s = .next { s with responses := s.responses ++ [⟨.ok, d⟩] } ∧
    ∀ n : Nat, n = s.block.msg[5].toNat % 16 →
      (n ∈ [1, 3, 5, 7, 9, 11, 13, 15] → d = 5) ∧ (n ∈ [8, 10, 12, 14] → d = 30) ∧ (n = 0 → d = 180) ∧
      (n ∈ [2, 4, 6] → d = 0)

/-- For every message and every position p in 0 to 17: the nibble is byte p/2 divided by 16 when p is even and byte
p/2 modulo 16 when p is odd, right-aligned in 0 to 15. Formalises R43, R135. -/
def Obligations.NibbleAddressing : Prop :=
  ∀ (m : Vector Byte 9) (p : Fin 18), ∃ b : Byte, m[p.val / 2]? = some b ∧ (nibble m p).toNat < 16 ∧
    (p.val % 2 = 0 → (nibble m p).toNat = b.toNat / 16) ∧ (p.val % 2 = 1 → (nibble m p).toNat = b.toNat % 16)

/-- Let two verified messages agree on nibbles 2 to 13. Then in states that differ only in holding one or the other
message, every field command answers the same response: nibbles 0, 1, 14, 15 and the checksum byte reach no field.
Derived from 44_fields.md section 4. -/
def Obligations.FieldsReadNibblesTwoToThirteen : Prop :=
  ∀ (s : State) (m : Vector Byte 9) (i : Instr), gatedByChecksum i = true → s.block.running = false →
    verifies s.block.msg = true → verifies m = true →
    (∀ p : Fin 18, 2 ≤ p.val → p.val ≤ 13 → nibble m p = nibble s.block.msg p) →
    ∃ r : Response, exec i s = .next { s with responses := s.responses ++ [r] } ∧ r.status = .ok ∧
      exec i { s with block := { s.block with msg := m } } =
        .next { s with block := { s.block with msg := m }, responses := s.responses ++ [r] }

/-- For every timestamp now of TIME_W bits, with interval = (now - lastEdgeTime) mod 2^TIME_W taken in the integers:
while bound = 0 nothing changes; else lastEdgeTime becomes now and, while running = 0, nothing else changes; else
SEEK runs in Seeking and RECORD in Recording on that interval. No response is returned. Formalises R75. -/
def Obligations.EdgeStep : Prop :=
  ∀ (s : State) (now i : Nat), now < 2 ^ s.cfg.timeW → (i : Int) = ((now : Int) - s.block.lastEdgeTime) % 2 ^ s.cfg.timeW →
    (s.block.bound = false → exec (.edge now) s = .next s) ∧
    (s.block.bound = true → s.block.running = false →
      exec (.edge now) s = .next { s with block := { s.block with lastEdgeTime := now } }) ∧
    (s.block.bound = true → s.block.running = true → s.block.phase = .seeking →
      exec (.edge now) s = .next { s with block := Block.seek s.cfg i { s.block with lastEdgeTime := now } }) ∧
    (s.block.bound = true → s.block.running = true → s.block.phase = .recording →
      exec (.edge now) s = .next { s with block := Block.record s.cfg i { s.block with lastEdgeTime := now } }) ∧
    (s.block.lastEdgeTime < 2 ^ s.cfg.timeW → now < s.block.lastEdgeTime →
      i = now + 2 ^ s.cfg.timeW - s.block.lastEdgeTime) ∧
    (now = s.block.lastEdgeTime → i = 0)

/-- In Seeking, bound and running, let i be the interval of an edge. If |i - SCAN_GAP| ≤ 3 SCAN_DELTA (inclusive, in
the integers) the edge sets phase = Recording, scanTiming = i, cursor = 0 and lastEdgeTime = now and changes nothing
else: i is not written to tbuf. Otherwise only lastEdgeTime changes. Formalises R76, R77. -/
def Obligations.ScanGapStartsRecording : Prop :=
  (∀ (s : State) (now i : Nat), now < 2 ^ s.cfg.timeW → (i : Int) = ((now : Int) - s.block.lastEdgeTime) % 2 ^ s.cfg.timeW →
    s.block.bound = true → s.block.running = true → s.block.phase = .seeking →
    (|(i : Int) - s.cfg.scanGap| ≤ 3 * s.cfg.scanDelta → exec (.edge now) s = .next { s with
      block := { s.block with lastEdgeTime := now, phase := .recording, scanTiming := i, cursor := 0 } }) ∧
    (¬ |(i : Int) - s.cfg.scanGap| ≤ 3 * s.cfg.scanDelta → exec (.edge now) s = .next { s with
      block := { s.block with lastEdgeTime := now } })) ∧
  ∀ (c : Config) (i : Nat), inScan c i = true ↔
    (c.scanGap : Int) - 3 * c.scanDelta ≤ i ∧ (i : Int) ≤ c.scanGap + 3 * c.scanDelta

/-- In Recording, bound and running, with cursor at most 143 (every state that meets the invariant): an edge writes
its interval unchanged to tbuf[cursor], increments cursor and sets lastEdgeTime. Below 143 nothing else changes. At
143 cursor becomes 144, running becomes 0, phase stays Recording, and sym, raw, msg and invCount are loaded with the
decode of tbuf, the entry just written included. Formalises R78, R110. -/
def Obligations.RecordStoresAndCompletes : Prop :=
  ∀ (s : State) (now i : Nat), now < 2 ^ s.cfg.timeW → (i : Int) = ((now : Int) - s.block.lastEdgeTime) % 2 ^ s.cfg.timeW →
    s.block.bound = true → s.block.running = true → s.block.phase = .recording →
    (∀ h : s.block.cursor < 143, exec (.edge now) s = .next { s with block := { s.block with
      lastEdgeTime := now, tbuf := s.block.tbuf.set s.block.cursor i (by omega), cursor := s.block.cursor + 1 } }) ∧
    (s.block.cursor = 143 → ∀ buf : Vector Nat 144, buf = s.block.tbuf.set 143 i →
      exec (.edge now) s = .next { s with block := { s.block with
        lastEdgeTime := now, tbuf := buf, cursor := 144, running := false, sym := classifyAll s.cfg buf,
        raw := packBytes (classifyAll s.cfg buf), msg := packBytes (reverseGroups (classifyAll s.cfg buf)),
        invCount := countInvalid (classifyAll s.cfg buf) } })

/-- An edge event with any timestamp acts exactly as the one with that timestamp modulo 2^TIME_W. The edge port is
TIME_W bits wide, so this clause about wider timestamps is the model's own (log entry 5). Derived from 40_capture.md
section 1; 60_exceptions.md section 4. -/
def Obligations.TimestampIsReadModuloItsWidth : Prop :=
  ∀ (s : State) (now : Nat), exec (.edge now) s = exec (.edge (now % 2 ^ s.cfg.timeW)) s

/-- For every interval t: isShort holds exactly when |t - PERIOD| ≤ 2 DELTA, equivalently PERIOD - 2 DELTA ≤ t ≤
PERIOD + 2 DELTA; isLong exactly when |t - 2 PERIOD| ≤ 4 DELTA, equivalently 2 PERIOD - 4 DELTA ≤ t ≤ 2 PERIOD + 4
DELTA; all in the integers, with no wrap. Formalises R95, R96. -/
def Obligations.ClassifierWindows : Prop :=
  ∀ (c : Config) (t : Nat),
    (isShort c t = true ↔ |(t : Int) - c.period| ≤ 2 * c.delta) ∧
    (isShort c t = true ↔ (c.period : Int) - 2 * c.delta ≤ t ∧ (t : Int) ≤ c.period + 2 * c.delta) ∧
    (isLong c t = true ↔ |(t : Int) - 2 * c.period| ≤ 4 * c.delta) ∧
    (isLong c t = true ↔ 2 * (c.period : Int) - 4 * c.delta ≤ t ∧ (t : Int) ≤ 2 * c.period + 4 * c.delta) ∧
    (c.period ≤ 2 * c.delta → isShort c 0 = true)

/-- For every pair of intervals: both short gives S0; high short and low long and not short gives S1; every other
pair gives SINV. So an interval of 0 as high gives SINV when PERIOD > 2 DELTA. When 6 DELTA < PERIOD a long low is
never short, so short-long alone gives S1 (this clause is the spec's own inference, 41_classifier.md, properties the
source states, (b)). Derived from 41_classifier.md, classify; 41_classifier.md, properties the source states;
90_conflicts.md C9. -/
def Obligations.ClassifyByWindows : Prop :=
  ∀ (c : Config) (high low : Nat),
    (isShort c high = true → isShort c low = true → classify c high low = .s0) ∧
    (isShort c high = true → isLong c low = true → isShort c low = false → classify c high low = .s1) ∧
    (6 * c.delta < c.period → isLong c low = true → isShort c low = false) ∧
    (isShort c high = false → classify c high low = .sinv) ∧
    (isShort c low = false → isLong c low = false → classify c high low = .sinv) ∧
    (2 * c.delta < c.period → classify c 0 low = .sinv)

/-- Some interval is both short and long exactly when 6 DELTA ≥ PERIOD. A pair whose high is short and whose low is
both short and long gives S0. Derived from 41_classifier.md, overlapping windows; 90_conflicts.md C9. -/
def Obligations.WindowsOverlapExactlyWhen : Prop :=
  ∀ c : Config,
    ((∃ t : Nat, isShort c t = true ∧ isLong c t = true) ↔ c.period ≤ 6 * c.delta) ∧
    ∀ high low : Nat, isShort c high = true → isShort c low = true → isLong c low = true →
      classify c high low = .s0

/-- For every timing buffer and every k in 0 to 71, symbol k of classifyAll is classify of entry 2k as high and
entry 2k+1 as low. Formalises R105. -/
def Obligations.PairsBecomeSymbols : Prop :=
  ∀ (c : Config) (buf : Vector Nat 144) (k : Fin 72),
    (classifyAll c buf)[k] = classify c (buf[2 * k.val]) (buf[2 * k.val + 1])

/-- For every string of 72 symbols, every byte b and every j in 0 to 7, bit 7 - j of byte b of the packed string is
1 exactly when symbol 8b + j is S1; S0 and SINV both give 0. Formalises R42, R106. -/
def Obligations.PackingIsMsbFirst : Prop :=
  ∀ (x : Vector Symbol 72) (b : Fin 9) (j : Fin 8),
    (packBytes x)[b].getLsbD (7 - j.val) = decide (x[8 * b.val + j.val] = .s1)

/-- reverseGroups puts symbol 4g + 3 - j at place 4g + j. For every string of symbols and every byte b, byte b of
the packed reversed string is byte b of the packed string with its high and its low nibble each bit-reversed, where
rev4 maps bit i to bit 3 - i (this byte form is the spec's own inference, 42_assembler.md, byte-level form of the
transform). Derived from 42_assembler.md section 1. -/
def Obligations.MessageByteIsItsRawByteNibblesReversed : Prop :=
  (∀ (x : Vector Symbol 72) (g : Fin 18) (j : Fin 4),
    (reverseGroups x)[4 * g.val + j.val] = x[4 * g.val + 3 - j.val]) ∧
  (∀ (n : Nibble) (j : Fin 4), (rev4 n).getLsbD j.val = n.getLsbD (3 - j.val)) ∧
  ∀ (x : Vector Symbol 72) (b : Fin 9),
    (packBytes (reverseGroups x))[b] =
      rev4 ((packBytes x)[b].extractLsb' 4 4) ++ rev4 ((packBytes x)[b].extractLsb' 0 4)

/-- For every string of 72 symbols, with SINV or without: reading its packed bytes MSB first gives the string with
each SINV replaced by S0 and every S0 and S1 as it was, so a string without SINV comes back exactly and the bit of
each SINV is 0; and reverseGroups applied twice gives the string back. Derived from 42_assembler.md section 4;
90_conflicts.md C10. -/
def Obligations.RoundTripAndInvolution : Prop :=
  (∀ x : Vector Symbol 72,
    (Vector.ofFn fun k : Fin 72 =>
      if (packBytes x)[k.val / 8].getLsbD (7 - k.val % 8) = true then Symbol.s1 else Symbol.s0) =
    x.map fun y => if y = .sinv then .s0 else y) ∧
  (∀ x : Vector Symbol 72, (∀ k : Fin 72, x[k] ≠ .sinv) →
    (Vector.ofFn fun k : Fin 72 =>
      if (packBytes x)[k.val / 8].getLsbD (7 - k.val % 8) = true then Symbol.s1 else Symbol.s0) = x) ∧
  (∀ (x : Vector Symbol 72) (k : Fin 72), x[k] = .sinv → (packBytes x)[k.val / 8].getLsbD (7 - k.val % 8) = false) ∧
  ∀ x : Vector Symbol 72, reverseGroups (reverseGroups x) = x

/-- For every string of 72 symbols countInvalid is the number of positions k with symbol k = SINV, at most 72, and
COMPLETE loads it into invCount, with raw and msg a function of the string through bitval alone. Formalises R111. -/
def Obligations.InvalidCountCountsInvalidSymbols : Prop :=
  (∀ x : Vector Symbol 72,
    countInvalid x = (Finset.univ.filter fun k : Fin 72 => x[k] = .sinv).card ∧ countInvalid x ≤ 72) ∧
  (∀ (c : Config) (b : Block), (b.complete c).invCount = countInvalid (classifyAll c b.tbuf)) ∧
  ∀ x y : Vector Symbol 72, (∀ k : Fin 72, x[k].bitval = y[k].bitval) →
    packBytes x = packBytes y ∧ packBytes (reverseGroups x) = packBytes (reverseGroups y)

/-- Let 6 DELTA < PERIOD. If entry 2k of the buffer is PERIOD and entry 2k+1 is 2 PERIOD where bit 7 - k mod 8 of
byte k/8 is 1 and PERIOD where it is 0, then the decode of the buffer has raw equal to those bytes, msg equal to
them with each nibble reversed, and invCount 0. Derived from 95_test_vectors.md Example configurations, frame timing
rule; 42_assembler.md section 1. -/
def Obligations.EncodedFrameDecodesToItsBytes : Prop :=
  ∀ (c : Config) (r : Vector Byte 9) (buf : Vector Nat 144), 6 * c.delta < c.period →
    (∀ k : Fin 72, buf[2 * k.val] = c.period ∧
      buf[2 * k.val + 1] = if r[k.val / 8].getLsbD (7 - k.val % 8) = true then 2 * c.period else c.period) →
    (decodeBuffer c buf).raw = r ∧
    (decodeBuffer c buf).msg = r.map (fun x => rev4 (x.extractLsb' 4 4) ++ rev4 (x.extractLsb' 0 4)) ∧
    (decodeBuffer c buf).invCount = 0

/-- In every state that meets the invariant with running = 0 and every pair of tbuf Invalid: AVAILABLE answers OK 1,
TEMP -40, DEPTH 0, DEVID 0, SERID 0, LOWBAT 0, TXINT 180 and GET_INVCNT 72. Derived from 70_reset_and_hazards.md
section 2; 43_integrity.md section 3. -/
def Obligations.NoiseVerifiesAsAnEmptyMessage : Prop :=
  ∀ s : State, Inv s → s.block.running = false →
    (∀ k : Fin 72, classify s.cfg (s.block.tbuf[2 * k.val]) (s.block.tbuf[2 * k.val + 1]) = .sinv) →
    exec .available s = .next { s with responses := s.responses ++ [⟨.ok, 1⟩] } ∧
    exec .temp s = .next { s with responses := s.responses ++ [⟨.ok, 0xFFFFFFD8⟩] } ∧
    exec .depth s = .next { s with responses := s.responses ++ [⟨.ok, 0⟩] } ∧
    exec .devid s = .next { s with responses := s.responses ++ [⟨.ok, 0⟩] } ∧
    exec .serid s = .next { s with responses := s.responses ++ [⟨.ok, 0⟩] } ∧
    exec .lowbat s = .next { s with responses := s.responses ++ [⟨.ok, 0⟩] } ∧
    exec .txint s = .next { s with responses := s.responses ++ [⟨.ok, 180⟩] } ∧
    exec .getInvcnt s = .next { s with responses := s.responses ++ [⟨.ok, 72⟩] }

/-- If bytes 0 to 7 of two messages are the same up to order, their checksums are equal; with the same byte 8 they
verify alike. Derived from 43_integrity.md section 3. -/
def Obligations.ChecksumIgnoresByteOrder : Prop :=
  ∀ m m' : Vector Byte 9, (m.toList.take 8).Perm (m'.toList.take 8) →
    checksum m = checksum m' ∧ (m[8] = m'[8] → verifies m = verifies m')

/-- If a message verifies, replacing any one of its nine bytes by a different value makes it fail, and changing two
different bytes by the same exclusive OR leaves it verifying. Derived from 43_integrity.md section 3. -/
def Obligations.SingleByteChangeDetectedCancellingPairNot : Prop :=
  ∀ m : Vector Byte 9, verifies m = true →
    (∀ (i : Fin 9) (x : Byte), x ≠ m[i] → verifies (m.set i x) = false) ∧
    ∀ (i j : Fin 9) (d : Byte), i ≠ j → verifies ((m.set i (m[i] ^^^ d)).set j (m[j] ^^^ d)) = true

/-- For every string of symbols, its packed form verifies exactly when the packed form of its nibble-reversed string
does: the transform is invisible to the check. Derived from 43_integrity.md section 3; 42_assembler.md section 1. -/
def Obligations.VerifySameOnRawAndMessage : Prop :=
  ∀ x : Vector Symbol 72, verifies (packBytes (reverseGroups x)) = verifies (packBytes x)

/-- Each of the fifteen read commands, in every state, returns one response and changes nothing else: no field of
the record, not the configuration, not the events to come. Issued again at once it returns the same response.
Derived from 20_memory.md section 3. -/
def Obligations.ReadCommandsAreIdempotent : Prop :=
  ∀ (i : Instr) (s : State), isRead i = true → ∃ r : Response,
    exec i s = .next { s with responses := s.responses ++ [r] } ∧
    exec i { s with responses := s.responses ++ [r] } = .next { s with responses := s.responses ++ [r, r] }

/-- If an operation answers a next state: bound changed only by START or STOP; lastEdgeTime only by an edge; phase
only by an edge from Seeking to Recording, or START or RESET; running only by an edge from 1 to 0, or by START or
RESET to 1; every other field only by an edge, START or RESET; STOP changed bound only; every read command changed
nothing of the record; the configuration and the events to come never changed. Formalises R36, R37. -/
def Obligations.WritersOfEachField : Prop :=
  ∀ (i : Instr) (s t : State), exec i s = .next t →
    t.cfg = s.cfg ∧ t.events = s.events ∧
    (t.block.bound ≠ s.block.bound → i = .start ∨ i = .stop) ∧
    (t.block.lastEdgeTime ≠ s.block.lastEdgeTime → ∃ now, i = .edge now) ∧
    (t.block.phase ≠ s.block.phase →
      ((∃ now, i = .edge now) ∧ s.block.phase = .seeking ∧ t.block.phase = .recording) ∨ i = .start ∨ i = .reset) ∧
    (t.block.running ≠ s.block.running →
      ((∃ now, i = .edge now) ∧ s.block.running = true ∧ t.block.running = false) ∨
      ((i = .start ∨ i = .reset) ∧ t.block.running = true)) ∧
    (¬ (t.block.cursor = s.block.cursor ∧ t.block.scanTiming = s.block.scanTiming ∧ t.block.tbuf = s.block.tbuf ∧
        t.block.sym = s.block.sym ∧ t.block.raw = s.block.raw ∧ t.block.msg = s.block.msg ∧
        t.block.invCount = s.block.invCount) → (∃ now, i = .edge now) ∨ i = .start ∨ i = .reset) ∧
    (i = .stop → t.block = { s.block with bound := false }) ∧
    (isRead i = true → t.block = s.block)

/-- Two states that agree on every field of the record but lastEdgeTime, tbuf and sym answer every command with the
same response: those three are not readable by any command. Formalises R38. -/
def Obligations.HiddenStateReachesNoResponse : Prop :=
  ∀ (i : Instr) (s s' : State), (∀ now, i ≠ .edge now) →
    s'.block = { s.block with
      lastEdgeTime := s'.block.lastEdgeTime, tbuf := s'.block.tbuf, sym := s'.block.sym } →
    ∃ (t t' : State) (r : Response), exec i s = .next t ∧ exec i s' = .next t' ∧
      t.responses = s.responses ++ [r] ∧ t'.responses = s'.responses ++ [r]

/-- For every state that meets Inv (TIME_W at least 1; conditions (a) to (f) of 10_state.md section 3; every time
below 2^TIME_W; invCount at most 72): if a step answers a next state, that state meets Inv. Derived from 10_state.md
section 3; 10_state.md section 1. -/
def Obligations.EveryStepKeepsTheInvariant : Prop :=
  ∀ s t : State, Inv s → step s = .next t → Inv t

/-- For every block instance with TIME_W at least 1, every sequence of events of the two agents and every number of
steps, the run from the power-on state answers a next state that meets conditions (a) to (f) of 10_state.md section
3. Derived from 10_state.md section 3; 70_reset_and_hazards.md section 1. -/
def Obligations.ReachableStatesMeetR34 : Prop :=
  ∀ (c : Config) (evs : List Event) (k : Nat), c.wf →
    ∃ t : State, Host.Core.run Sys2Proof.core k { State.powerOn c with events := evs } = .next t ∧
      t.cfg = c ∧ t.block.Inv c

/-- From every state with running = 0 and any events to come that hold no START and no RESET (edges, STOP, reads,
illegal words, in any interleaving), every run answers a next state with the same running, phase, cursor,
scanTiming, tbuf, sym, raw, msg and invCount. Derived from 20_memory.md section 4; 70_reset_and_hazards.md section
3. -/
def Obligations.CompletedCaptureIsStable : Prop :=
  ∀ (s : State) (k : Nat), s.block.running = false → s.noRestart = true →
    ∃ t : State, Host.Core.run Sys2Proof.core k s = .next t ∧ s.block.SameCapture t.block

/-- From every state with running = 1, STOP answers a next state with bound = 0; from there any run of edges and
commands without START or RESET leaves the whole record as STOP left it: running = 1, ready_o low, and IS_READY
would answer 0. Formalises R187. -/
def Obligations.StoppedCaptureNeverFinishes : Prop :=
  ∀ (s t : State) (k : Nat), s.block.running = true → s.noRestart = true → exec .stop s = .next t →
    ∃ u : State, Host.Core.run Sys2Proof.core k t = .next u ∧ u.block = { s.block with bound := false } ∧
      u.readyO = false ∧ exec .isReady u = .next { u with responses := u.responses ++ [⟨.ok, 0⟩] }

/-- From a bound, running state in Recording with cursor 0, let any events come that hold exactly 144 edges of
TIME_W bits and no START, RESET or STOP. Then the run of those events answers a next state with running = 0, cursor
= 144, tbuf[j] the j-th interval modulo 2^TIME_W, lastEdgeTime the last timestamp, scanTiming unchanged, and the
decode registers loaded with the decode of that buffer. Derived from 20_memory.md section 1; 40_capture.md section
1. -/
def Obligations.CaptureFillsTheBufferInOrder : Prop :=
  ∀ (s : State) (evs rest : List Event), s.block.bound = true → s.block.running = true →
    s.block.phase = .recording → s.block.cursor = 0 → s.events = evs ++ rest → (edgeTimes evs).length = 144 →
    (∀ now ∈ edgeTimes evs, now < 2 ^ s.cfg.timeW) →
    (∀ e ∈ evs, restarts e = false ∧ decodeEvent e ≠ .op .stop) →
    ∃ t : State, Host.Core.run Sys2Proof.core evs.length s = .next t ∧ t.events = rest ∧ t.cfg = s.cfg ∧
      t.block.running = false ∧ t.block.cursor = 144 ∧ t.block.phase = .recording ∧
      t.block.scanTiming = s.block.scanTiming ∧
      some t.block.lastEdgeTime = (edgeTimes evs)[143]? ∧
      (∀ (j : Fin 144) (now last : Nat), (edgeTimes evs)[j.val]? = some now →
        (s.block.lastEdgeTime :: edgeTimes evs)[j.val]? = some last →
        (t.block.tbuf[j] : Int) = ((now : Int) - last) % 2 ^ s.cfg.timeW) ∧
      t.block.sym = classifyAll s.cfg t.block.tbuf ∧ t.block.raw = packBytes t.block.sym ∧
      t.block.msg = packBytes (reverseGroups t.block.sym) ∧ t.block.invCount = countInvalid t.block.sym

/-- From every state with running = 0, let any events come whose commands are GET_MSG 0 to GET_MSG 8 in order, with
any edges anywhere between. The run answers a next state in which exactly nine responses were returned: OK with
msg[0] to msg[8] of the state at the start, and msg is unchanged. Derived from 70_reset_and_hazards.md section 2;
30_encoding.md section 6. -/
def Obligations.NineReadsReturnOneCapture : Prop :=
  ∀ (s : State) (evs rest : List Event), s.block.running = false → s.events = evs ++ rest →
    evs.filter (fun e => !isEdge e) = ((List.range 9).map fun b => encode (.getMsg b)) →
    ∃ t : State, Host.Core.run Sys2Proof.core evs.length s = .next t ∧ t.events = rest ∧
      t.block.msg = s.block.msg ∧
      t.responses = s.responses ++ List.ofFn fun b : Fin 9 => Response.mk .ok (s.block.msg[b].setWidth 32)

/-- In every state that meets the invariant: a step after which ready_o is high and before which it was low is an
edge delivered while bound in Recording with cursor 143, and leaves cursor 144; a step after which it is low and
before which it was high ran START or RESET. Such an edge does raise it, and START and RESET always lower it.
Derived from 60_exceptions.md section 2; 10_state.md section 4. -/
def Obligations.ReadyOutputRisesAndFalls : Prop :=
  ∀ s t : State, Inv s → step s = .next t →
    (s.readyO = false → t.readyO = true → ∃ (now : Nat) (rest : List Event), s.events = .edge now :: rest ∧
      s.block.bound = true ∧ s.block.phase = .recording ∧ s.block.cursor = 143 ∧ t.block.cursor = 144) ∧
    (s.readyO = true → t.readyO = false → ∃ (e : Event) (rest : List Event), s.events = e :: rest ∧
      (decodeEvent e = .op .start ∨ decodeEvent e = .op .reset)) ∧
    (∀ (now : Nat) (rest : List Event), s.events = .edge now :: rest → s.block.bound = true →
      s.block.running = true → s.block.phase = .recording → s.block.cursor = 143 → t.readyO = true) ∧
    ∀ (e : Event) (rest : List Event), s.events = e :: rest →
      (decodeEvent e = .op .start ∨ decodeEvent e = .op .reset) → t.readyO = false

/-- An edge and a read command that arrive together may be taken in either order. With running = 0 both orders end
in the same state with the same response. On the edge that completes a capture they differ: IS_READY taken after it
answers 1, taken before it answers 0. Derived from 20_memory.md section 4; 60_exceptions.md section 2. -/
def Obligations.OrderOfAnEdgeAndACommand : Prop :=
  (∀ (s : State) (now : Nat) (w : CmdWord) (i : Instr) (rest : List Event), s.block.running = false →
    decodeCmd w = .op i → isRead i = true → ∃ t : State,
      Host.Core.run Sys2Proof.core 2 { s with events := .edge now :: .cmd w :: rest } = .next t ∧
      Host.Core.run Sys2Proof.core 2 { s with events := .cmd w :: .edge now :: rest } = .next t) ∧
  ∀ (s : State) (now : Nat) (rest : List Event), s.block.bound = true → s.block.running = true →
    s.block.phase = .recording → s.block.cursor = 143 → ∃ t t' : State,
      Host.Core.run Sys2Proof.core 2 { s with events := .edge now :: .cmd 0x1000 :: rest } = .next t ∧
      Host.Core.run Sys2Proof.core 2 { s with events := .cmd 0x1000 :: .edge now :: rest } = .next t' ∧
      t.block = t'.block ∧ t.responses = s.responses ++ [⟨.ok, 1⟩] ∧ t'.responses = s.responses ++ [⟨.ok, 0⟩]
end

