-- ==== Sys2Proof/Laws/Decode.lean ====
section
/-! SUPPORT. The fields of a command word built from its fields, and the decoding of such a word by its row. -/

namespace Sys2Proof

variable (opc idx : BitVec 8)

@[simp] theorem opcOf_append : opcOf (opc ++ idx) = opc := by
  apply BitVec.eq_of_getLsbD_eq
  intro i hi
  have h := BitVec.getLsbD_append (x := opc) (y := idx) (i := 8 + i)
  simpa [opcOf, hi] using h

@[simp] theorem idxOf_append : idxOf (opc ++ idx) = idx.toNat := by
  unfold idxOf
  congr 1
  apply BitVec.eq_of_getLsbD_eq
  intro i hi
  have h := BitVec.getLsbD_append (x := opc) (y := idx) (i := i)
  simpa [hi] using h

/-- Every command word is its two fields put together (30_encoding.md R56). -/
theorem append_fields (w : CmdWord) : ∃ opc idx : BitVec 8, w = opc ++ idx :=
  ⟨w.extractLsb' 8 8, w.extractLsb' 0 8, by
    apply BitVec.eq_of_getLsbD_eq
    intro i hi
    rw [BitVec.getLsbD_append]
    split
    · next h => simp [h]
    · next h =>
      rw [BitVec.getLsbD_extractLsb']
      simp [show i - 8 < 8 by omega, show 8 + (i - 8) = i by omega]⟩

/-- Decoding by the row of the operation code and the condition of its class (R63). -/
theorem decodeCmd_append :
    decodeCmd (opc ++ idx) =
      match opcodeRow opc with
      | none => .illegal .unassignedOpc
      | some (cls, mk) => if cls.admits idx.toNat then .op (mk idx.toNat) else .illegal cls.reject := by
  rcases h : opcodeRow opc with _ | ⟨cls, mk⟩ <;> simp [decodeCmd, h]

/-- The opcode map, row by row: every operation code is unassigned or one of the eighteen (R60). -/
theorem opcodeRow_cases (opc : BitVec 8) :
    (opcodeRow opc = none ∧ opc.toNat ∉ [0x01, 0x02, 0x03, 0x10, 0x11, 0x12, 0x13, 0x20, 0x21, 0x22, 0x28, 0x29,
      0x30, 0x31, 0x32, 0x33, 0x34, 0x35]) ∨
    (opc = 0x01 ∧ opcodeRow opc = some (.N, fun _ => .start)) ∨
    (opc = 0x02 ∧ opcodeRow opc = some (.N, fun _ => .stop)) ∨
    (opc = 0x03 ∧ opcodeRow opc = some (.N, fun _ => .reset)) ∨
    (opc = 0x10 ∧ opcodeRow opc = some (.N, fun _ => .isReady)) ∨
    (opc = 0x11 ∧ opcodeRow opc = some (.N, fun _ => .getStatus)) ∨
    (opc = 0x12 ∧ opcodeRow opc = some (.N, fun _ => .getScan)) ∨
    (opc = 0x13 ∧ opcodeRow opc = some (.N, fun _ => .getInvcnt)) ∨
    (opc = 0x20 ∧ opcodeRow opc = some (.B, .getRaw)) ∨
    (opc = 0x21 ∧ opcodeRow opc = some (.B, .getMsg)) ∨
    (opc = 0x22 ∧ opcodeRow opc = some (.P, .getNib)) ∨
    (opc = 0x28 ∧ opcodeRow opc = some (.N, fun _ => .verify)) ∨
    (opc = 0x29 ∧ opcodeRow opc = some (.N, fun _ => .available)) ∨
    (opc = 0x30 ∧ opcodeRow opc = some (.N, fun _ => .temp)) ∨
    (opc = 0x31 ∧ opcodeRow opc = some (.N, fun _ => .depth)) ∨
    (opc = 0x32 ∧ opcodeRow opc = some (.N, fun _ => .devid)) ∨
    (opc = 0x33 ∧ opcodeRow opc = some (.N, fun _ => .serid)) ∨
    (opc = 0x34 ∧ opcodeRow opc = some (.N, fun _ => .lowbat)) ∨
    (opc = 0x35 ∧ opcodeRow opc = some (.N, fun _ => .txint)) := by
  simp only [← BitVec.toNat_inj, BitVec.reduceToNat]
  unfold opcodeRow
  generalize opc.toNat = k
  split <;> simp_all

end Sys2Proof
end

