-- ==== Sys2Proof/Laws/State.lean ====
section
/-! SUPPORT. One lemma per field and per update of State and of the block's record, true by rfl. -/

namespace Sys2Proof.Machine

variable (s : State) (b : Block) (r : Response) (e : Event) (c : Config) (i : Nat)

@[simp] theorem State.emit_block : (s.emit r).block = s.block := rfl
@[simp] theorem State.emit_cfg : (s.emit r).cfg = s.cfg := rfl
@[simp] theorem State.emit_events : (s.emit r).events = s.events := rfl
@[simp] theorem State.emit_responses : (s.emit r).responses = s.responses ++ [r] := rfl
@[simp] theorem State.emit_readyO : (s.emit r).readyO = s.readyO := rfl

@[simp] theorem State.putBlock_block : (s.putBlock b).block = b := rfl
@[simp] theorem State.putBlock_cfg : (s.putBlock b).cfg = s.cfg := rfl
@[simp] theorem State.putBlock_events : (s.putBlock b).events = s.events := rfl
@[simp] theorem State.putBlock_responses : (s.putBlock b).responses = s.responses := rfl
@[simp] theorem State.putBlock_readyO : (s.putBlock b).readyO = !b.running := rfl
@[simp] theorem State.putBlock_self : s.putBlock s.block = s := rfl

@[simp] theorem State.present_block : (s.present e).block = s.block := rfl
@[simp] theorem State.present_cfg : (s.present e).cfg = s.cfg := rfl
@[simp] theorem State.present_events : (s.present e).events = e :: s.events := rfl
@[simp] theorem State.present_responses : (s.present e).responses = s.responses := rfl

@[simp] theorem Block.clearCapture_bound : b.clearCapture.bound = b.bound := rfl
@[simp] theorem Block.clearCapture_running : b.clearCapture.running = true := rfl
@[simp] theorem Block.clearCapture_phase : b.clearCapture.phase = .seeking := rfl
@[simp] theorem Block.clearCapture_cursor : b.clearCapture.cursor = 0 := rfl
@[simp] theorem Block.clearCapture_lastEdgeTime : b.clearCapture.lastEdgeTime = b.lastEdgeTime := rfl
@[simp] theorem Block.clearCapture_scanTiming : b.clearCapture.scanTiming = 0 := rfl
@[simp] theorem Block.clearCapture_tbuf : b.clearCapture.tbuf = Vector.replicate 144 0 := rfl
@[simp] theorem Block.clearCapture_sym : b.clearCapture.sym = Vector.replicate 72 .s0 := rfl
@[simp] theorem Block.clearCapture_raw : b.clearCapture.raw = Vector.replicate 9 0x00 := rfl
@[simp] theorem Block.clearCapture_msg : b.clearCapture.msg = Vector.replicate 9 0x00 := rfl
@[simp] theorem Block.clearCapture_invCount : b.clearCapture.invCount = 0 := rfl

@[simp] theorem Block.store_bound : (b.store i).bound = b.bound := rfl
@[simp] theorem Block.store_running : (b.store i).running = b.running := rfl
@[simp] theorem Block.store_phase : (b.store i).phase = b.phase := rfl
@[simp] theorem Block.store_cursor : (b.store i).cursor = b.cursor + 1 := rfl
@[simp] theorem Block.store_lastEdgeTime : (b.store i).lastEdgeTime = b.lastEdgeTime := rfl
@[simp] theorem Block.store_scanTiming : (b.store i).scanTiming = b.scanTiming := rfl
@[simp] theorem Block.store_tbuf : (b.store i).tbuf = b.tbuf.setIfInBounds b.cursor i := rfl
@[simp] theorem Block.store_sym : (b.store i).sym = b.sym := rfl
@[simp] theorem Block.store_raw : (b.store i).raw = b.raw := rfl
@[simp] theorem Block.store_msg : (b.store i).msg = b.msg := rfl
@[simp] theorem Block.store_invCount : (b.store i).invCount = b.invCount := rfl

@[simp] theorem Block.complete_bound : (b.complete c).bound = b.bound := by
  simp only [Block.complete, decodeBuffer]
@[simp] theorem Block.complete_running : (b.complete c).running = b.running := by
  simp only [Block.complete, decodeBuffer]
@[simp] theorem Block.complete_phase : (b.complete c).phase = b.phase := by
  simp only [Block.complete, decodeBuffer]
@[simp] theorem Block.complete_cursor : (b.complete c).cursor = b.cursor := by
  simp only [Block.complete, decodeBuffer]
@[simp] theorem Block.complete_lastEdgeTime : (b.complete c).lastEdgeTime = b.lastEdgeTime := by
  simp only [Block.complete, decodeBuffer]
@[simp] theorem Block.complete_scanTiming : (b.complete c).scanTiming = b.scanTiming := by
  simp only [Block.complete, decodeBuffer]
@[simp] theorem Block.complete_tbuf : (b.complete c).tbuf = b.tbuf := by
  simp only [Block.complete, decodeBuffer]
@[simp] theorem Block.complete_sym : (b.complete c).sym = classifyAll c b.tbuf := by
  simp only [Block.complete, decodeBuffer]
@[simp] theorem Block.complete_raw : (b.complete c).raw = packBytes (classifyAll c b.tbuf) := by
  simp only [Block.complete, decodeBuffer]
@[simp] theorem Block.complete_msg :
    (b.complete c).msg = packBytes (reverseGroups (classifyAll c b.tbuf)) := by
  simp only [Block.complete, decodeBuffer]
@[simp] theorem Block.complete_invCount : (b.complete c).invCount = countInvalid (classifyAll c b.tbuf) := by
  simp only [Block.complete, decodeBuffer]

end Sys2Proof.Machine
end

