-- ==== Sys2Proof/Laws/Ops.lean ====
section
/-! SUPPORT. One spec lemma per shared operation: what it answers, in every case. Later proofs cite these instead of
unfolding the operation. -/

namespace Sys2Proof.Machine

variable (s t : State) (b : Block) (v : Data) (c : Config)

@[simp] theorem respond_eq (st : Status) (d : Data) : respond st d s = .next (s.emit ⟨st, d⟩) := rfl

@[simp] theorem respondIllegal_eq : respondIllegal s = .next (s.emit ⟨.illegal, 0⟩) := rfl

@[simp] theorem finishEdge_eq : finishEdge b s = .next (s.putBlock b) := rfl

/-- The ready gate always answers, with the record untouched; which response, the state alone decides (R163). -/
theorem readyGate_eq :
    readyGate v s = .next (s.emit (if s.block.running then ⟨.notReady, 0⟩ else ⟨.ok, v⟩)) := by
  unfold readyGate
  split <;> rfl

/-- The field gate always answers, with the record untouched (44_fields.md R137). -/
theorem fieldRespond_eq :
    fieldRespond v s = .next (s.emit (if s.block.running then ⟨.notReady, 0⟩
      else if verifies s.block.msg then ⟨.ok, v⟩ else ⟨.invalid, 0⟩)) := by
  unfold fieldRespond
  cases s.block.running <;> cases verifies s.block.msg <;> rfl

theorem byteOperand_of_le (m : Vector Byte 9) {idx : Nat} (h : idx ≤ 8) :
    byteOperand m idx = some (m[idx]'(by omega)) := by
  simp [byteOperand, h]

theorem byteOperand_of_gt (m : Vector Byte 9) {idx : Nat} (h : 8 < idx) : byteOperand m idx = none := by
  simp [byteOperand, Nat.not_le.mpr h]

theorem nibbleOperand_of_le (m : Vector Byte 9) {idx : Nat} (h : idx ≤ 17) :
    nibbleOperand m idx = some (nibble m ⟨idx, by omega⟩) := by
  simp [nibbleOperand, h]

theorem nibbleOperand_of_gt (m : Vector Byte 9) {idx : Nat} (h : 17 < idx) : nibbleOperand m idx = none := by
  simp [nibbleOperand, Nat.not_le.mpr h]

/-- A window is the inclusive two-sided one of the spec, in ℤ. -/
theorem within_iff (x y tol : Nat) : within x y tol = true ↔ |(x : Int) - y| ≤ tol := by
  rw [within, decide_eq_true_eq, Int.abs_eq_natAbs]
  exact Nat.cast_le.symm

theorem isShort_iff (t : Nat) : isShort c t = true ↔ |(t : Int) - c.period| ≤ 2 * c.delta := by
  rw [isShort, within_iff]
  simp [shortTol]

theorem isLong_iff (t : Nat) : isLong c t = true ↔ |(t : Int) - 2 * c.period| ≤ 4 * c.delta := by
  rw [isLong, within_iff]
  simp [longTol]

theorem inScan_iff (t : Nat) : inScan c t = true ↔ |(t : Int) - c.scanGap| ≤ 3 * c.scanDelta := by
  rw [inScan, within_iff]
  simp [scanTol]

/-- The interval is the difference in ℤ, reduced modulo `2 ^ TIME_W` (40_capture.md R75). -/
theorem interval_eq (now last : Nat) :
    (interval c now last : Int) = ((now : Int) - last) % 2 ^ c.timeW := by
  unfold interval
  rw [Int.toNat_of_nonneg (Int.emod_nonneg _ (by positivity))]
  push_cast
  rfl

theorem interval_lt (now last : Nat) : interval c now last < 2 ^ c.timeW := by
  have h := interval_eq c now last
  have := Int.emod_lt_of_pos ((now : Int) - last) (show (0 : Int) < 2 ^ c.timeW by positivity)
  rw [← h] at this
  exact_mod_cast this

theorem portTime_lt (now : Nat) : portTime c now < 2 ^ c.timeW := Nat.mod_lt _ (by positivity)

theorem portTime_of_lt {now : Nat} (h : now < 2 ^ c.timeW) : portTime c now = now := Nat.mod_eq_of_lt h

/-- What an edge step can do to the record (40_capture.md R75, R77, R78): six cases, guards included. -/
theorem Block.edge_cases (now : Nat) :
    (b.bound = false ∧ b.edge c now = b) ∨
    (b.bound = true ∧ b.running = false ∧ b.edge c now = { b with lastEdgeTime := now }) ∨
    (b.bound = true ∧ b.running = true ∧ b.phase = .seeking ∧ inScan c (interval c now b.lastEdgeTime) = false ∧
      b.edge c now = { b with lastEdgeTime := now }) ∨
    (b.bound = true ∧ b.running = true ∧ b.phase = .seeking ∧ inScan c (interval c now b.lastEdgeTime) = true ∧
      b.edge c now = { b with
        lastEdgeTime := now, phase := .recording, scanTiming := interval c now b.lastEdgeTime, cursor := 0 }) ∨
    (b.bound = true ∧ b.running = true ∧ b.phase = .recording ∧ b.cursor < 143 ∧
      b.edge c now = { b with
        lastEdgeTime := now, tbuf := b.tbuf.setIfInBounds b.cursor (interval c now b.lastEdgeTime),
        cursor := b.cursor + 1 }) ∨
    (b.bound = true ∧ b.running = true ∧ b.phase = .recording ∧ 143 ≤ b.cursor ∧
      b.edge c now = Block.complete c { b with
        lastEdgeTime := now, tbuf := b.tbuf.setIfInBounds b.cursor (interval c now b.lastEdgeTime),
        cursor := b.cursor + 1, running := false }) := by
  unfold Block.edge
  cases hb : b.bound
  · simp
  cases hr : b.running
  · simp
  cases hp : b.phase
  · cases hs : inScan c (interval c now b.lastEdgeTime) <;> simp [Block.seek, hs]
  · rcases Nat.lt_or_ge b.cursor 143 with hc | hc
    · simp [Block.record, Block.store, capacity, hc, Nat.not_le.mpr hc, show ¬ 143 < b.cursor + 1 by omega]
    · simp [Block.record, Block.store, capacity, hc, show 143 < b.cursor + 1 by omega]

end Sys2Proof.Machine
end

