-- ==== Sys2Proof/Laws/Exec.lean ====
section
/-! SUPPORT. What one instruction and one step can do, said once (`exec_cases`, `step_cases`); every later proof about
a run starts from these. -/

namespace Sys2Proof.Machine

variable (s t : State)

theorem exec_edge (now : Nat) :
    exec (.edge now) s = .next (s.putBlock (s.block.edge s.cfg (portTime s.cfg now))) := rfl

theorem exec_start :
    exec .start s = .next ((s.putBlock (Block.clearCapture { s.block with bound := true })).emit ⟨.ok, 0⟩) := rfl

theorem exec_stop :
    exec .stop s = .next ((s.putBlock { s.block with bound := false }).emit ⟨.ok, 0⟩) := rfl

theorem exec_reset : exec .reset s = .next ((s.putBlock s.block.clearCapture).emit ⟨.ok, 0⟩) := rfl

/-- A read command returns one response, whose data is 0 unless its status is OK, and writes nothing
(20_memory.md R46). -/
theorem exec_read {i : Instr} (h : isRead i = true) :
    ∃ r : Response, exec i s = .next (s.emit r) ∧ (r.status ≠ .ok → r.data = 0) := by
  have gate (v : Data) : ∃ r : Response, readyGate v s = .next (s.emit r) ∧ (r.status ≠ .ok → r.data = 0) := by
    rw [readyGate_eq]
    refine ⟨_, rfl, ?_⟩
    split <;> simp
  have field (v : Data) : ∃ r : Response, fieldRespond v s = .next (s.emit r) ∧ (r.status ≠ .ok → r.data = 0) := by
    rw [fieldRespond_eq]
    refine ⟨_, rfl, ?_⟩
    repeat' split
    all_goals simp
  have plain (v : Data) : ∃ r : Response, respond .ok v s = .next (s.emit r) ∧ (r.status ≠ .ok → r.data = 0) :=
    ⟨⟨.ok, v⟩, rfl, by simp⟩
  have bad : ∃ r : Response, respondIllegal s = .next (s.emit r) ∧ (r.status ≠ .ok → r.data = 0) :=
    ⟨⟨.illegal, 0⟩, rfl, fun _ => rfl⟩
  cases i with
  | start | stop | reset | edge => exact absurd h (by simp [isRead])
  | isReady | getStatus | getScan | available => exact plain _
  | getInvcnt | verify => exact gate _
  | getRaw idx | getMsg idx | getNib idx =>
    simp only [exec, execGetRaw, execGetMsg, execGetNib]
    split
    · exact bad
    · exact gate _
  | temp | depth | devid | serid | lowbat | txint => exact field _

/-- Everything one instruction can do: five cases. -/
theorem exec_cases (i : Instr) :
    (∃ now, i = .edge now ∧ exec i s = .next (s.putBlock (s.block.edge s.cfg (portTime s.cfg now)))) ∨
    (i = .start ∧
      exec i s = .next ((s.putBlock (Block.clearCapture { s.block with bound := true })).emit ⟨.ok, 0⟩)) ∨
    (i = .stop ∧ exec i s = .next ((s.putBlock { s.block with bound := false }).emit ⟨.ok, 0⟩)) ∨
    (i = .reset ∧ exec i s = .next ((s.putBlock s.block.clearCapture).emit ⟨.ok, 0⟩)) ∨
    (isRead i = true ∧ ∃ r : Response, exec i s = .next (s.emit r) ∧ (r.status ≠ .ok → r.data = 0)) := by
  cases h : isRead i
  · cases i with
    | start => exact .inr (.inl ⟨rfl, rfl⟩)
    | stop => exact .inr (.inr (.inl ⟨rfl, rfl⟩))
    | reset => exact .inr (.inr (.inr (.inl ⟨rfl, rfl⟩)))
    | edge now => exact .inl ⟨now, rfl, rfl⟩
    | isReady | getStatus | getScan | getInvcnt | getRaw | getMsg | getNib | verify | available | temp | depth
    | devid | serid | lowbat | txint => exact absurd h (by simp [isRead])
  · exact .inr (.inr (.inr (.inr ⟨rfl, exec_read s h⟩)))

theorem step_of_no_event (h : s.events = []) : step s = .next s := by
  simp [step, fetch, h, idle]

theorem step_of_op {e : Event} {rest : List Event} {i : Instr} (he : s.events = e :: rest)
    (hd : decodeEvent e = .op i) : step s = exec i { s with events := rest } := by
  simp [step, fetch, he, hd]

theorem step_of_illegal {e : Event} {rest : List Event} {why : Illegal} (he : s.events = e :: rest)
    (hd : decodeEvent e = .illegal why) :
    step s = .next (State.emit ⟨.illegal, 0⟩ { s with events := rest }) := by
  simp [step, fetch, he, hd]

/-- Everything one step can do: wait, run the decoded operation, or answer an illegal word. -/
theorem step_cases :
    (s.events = [] ∧ step s = .next s) ∨
    (∃ e rest i, s.events = e :: rest ∧ decodeEvent e = .op i ∧ step s = exec i { s with events := rest }) ∨
    (∃ e rest why, s.events = e :: rest ∧ decodeEvent e = .illegal why ∧
      step s = .next (State.emit ⟨.illegal, 0⟩ { s with events := rest })) := by
  cases he : s.events with
  | nil => exact .inl ⟨rfl, step_of_no_event s he⟩
  | cons e rest =>
    cases hd : decodeEvent e with
    | op i => exact .inr (.inl ⟨e, rest, i, rfl, hd, step_of_op s he hd⟩)
    | illegal why => exact .inr (.inr ⟨e, rest, why, rfl, hd, step_of_illegal s he hd⟩)

end Sys2Proof.Machine
end

