-- ==== Sys2Proof/Laws/PerInstr.lean ====
section
/-! SUPPORT. Statements made per instruction. Family RoundTrip: what the encoder writes for a well-formed operation,
the decoder reads back (30_encoding.md R56, R57, R60, R63). -/

namespace Sys2Proof.Laws.RoundTrip

/-- The operation comes back from its own event, on every block instance whose ports can carry it. -/
def Statement (i : Instr) : Prop := ∀ c : Config, i.wf c = true → decodeEvent (encode i) = .op i

theorem start : Statement .start := fun _ _ => by decide
theorem stop : Statement .stop := fun _ _ => by decide
theorem reset : Statement .reset := fun _ _ => by decide
theorem isReady : Statement .isReady := fun _ _ => by decide
theorem getStatus : Statement .getStatus := fun _ _ => by decide
theorem getScan : Statement .getScan := fun _ _ => by decide
theorem getInvcnt : Statement .getInvcnt := fun _ _ => by decide

theorem getRaw (idx : Nat) : Statement (.getRaw idx) := fun _ h => by
  have hi : idx ≤ 8 := by simpa [Instr.wf, byteIndexOk] using h
  interval_cases idx <;> decide

theorem getMsg (idx : Nat) : Statement (.getMsg idx) := fun _ h => by
  have hi : idx ≤ 8 := by simpa [Instr.wf, byteIndexOk] using h
  interval_cases idx <;> decide

theorem getNib (idx : Nat) : Statement (.getNib idx) := fun _ h => by
  have hi : idx ≤ 17 := by simpa [Instr.wf, nibblePosOk] using h
  interval_cases idx <;> decide

theorem verify : Statement .verify := fun _ _ => by decide
theorem available : Statement .available := fun _ _ => by decide
theorem temp : Statement .temp := fun _ _ => by decide
theorem depth : Statement .depth := fun _ _ => by decide
theorem devid : Statement .devid := fun _ _ => by decide
theorem serid : Statement .serid := fun _ _ => by decide
theorem lowbat : Statement .lowbat := fun _ _ => by decide
theorem txint : Statement .txint := fun _ _ => by decide
theorem edge (now : Nat) : Statement (.edge now) := fun _ _ => rfl

end Sys2Proof.Laws.RoundTrip
end

