-- ==== Sys2Proof/Laws/Run.lean ====
section
/-! SUPPORT. Runs: one step of a run, and the induction over a run packaged once. -/

namespace Sys2Proof.Machine

/-- A step answers a next state and leaves the parameters as they are (10_state.md R36). -/
theorem step_next (s : State) : ∃ t, step s = .next t ∧ t.cfg = s.cfg := by
  rcases step_cases s with ⟨-, h⟩ | ⟨e, rest, i, -, -, h⟩ | ⟨e, rest, why, -, -, h⟩
  · exact ⟨_, h, rfl⟩
  · rcases exec_cases { s with events := rest } i with ⟨now, -, hx⟩ | ⟨-, hx⟩ | ⟨-, hx⟩ | ⟨-, hx⟩ | ⟨-, r, hx, -⟩
    all_goals exact ⟨_, h.trans hx, rfl⟩
  · exact ⟨_, h, rfl⟩

theorem run_zero (s : State) : Host.Core.run Sys2Proof.core 0 s = .next s := rfl

theorem run_succ {k : Nat} {s t : State} (h : step s = .next t) :
    Host.Core.run Sys2Proof.core (k + 1) s = Host.Core.run Sys2Proof.core k t := by
  have hs : Sys2Proof.core.step s = .next t := h
  simp only [Host.Core.run, hs]

/-- What every step keeps, every run keeps; and every run answers a next state. -/
theorem run_keeps {P : State → Prop} (hP : ∀ s t, P s → step s = .next t → P t) {s : State} (h : P s) (k : Nat) :
    ∃ t : State, Host.Core.run Sys2Proof.core k s = .next t ∧ P t := by
  induction k generalizing s with
  | zero => exact ⟨s, rfl, h⟩
  | succ k ih =>
    obtain ⟨t, ht, -⟩ := step_next s
    rw [run_succ ht]
    exact ih (hP s t h ht)

end Sys2Proof.Machine
end

