-- ==== Sys2Proof/Machine/Listing.lean ====
section
/-! DEFINITION. The listing notation of the spec and its pseudo-instructions (30_encoding.md R66, R67): how a line of
a listing spells events of the ports. No step reads it; it is how test programs are written down. -/

namespace Sys2Proof.Machine

/-- READMSG (R67): the nine GET_MSG commands in order. -/
def readMsg : List Instr := (List.range 9).map .getMsg

/-- READRAW (R67): the nine GET_RAW commands in order. -/
def readRaw : List Instr := (List.range 9).map .getRaw

/-- READFIELDS (R67): the six field commands in order. -/
def readFields : List Instr := [.temp, .depth, .devid, .serid, .lowbat, .txint]

/-- The mnemonic a listing line begins with (R60, R66). -/
def mnemonic : Instr → String
  | .start => "START"
  | .stop => "STOP"
  | .reset => "RESET"
  | .isReady => "IS_READY"
  | .getStatus => "GET_STATUS"
  | .getScan => "GET_SCAN"
  | .getInvcnt => "GET_INVCNT"
  | .getRaw _ => "GET_RAW"
  | .getMsg _ => "GET_MSG"
  | .getNib _ => "GET_NIB"
  | .verify => "VERIFY"
  | .available => "AVAILABLE"
  | .temp => "TEMP"
  | .depth => "DEPTH"
  | .devid => "DEVID"
  | .serid => "SERID"
  | .lowbat => "LOWBAT"
  | .txint => "TXINT"
  | .edge _ => "EDGE"

/-- The operand a listing line shows after the mnemonic, for class B and P commands and for EDGE (R66). -/
def listedOperand : Instr → Option Nat
  | .getRaw idx => some idx
  | .getMsg idx => some idx
  | .getNib idx => some idx
  | .edge now => some now
  | .start | .stop | .reset | .isReady | .getStatus | .getScan | .getInvcnt | .verify | .available => none
  | .temp | .depth | .devid | .serid | .lowbat | .txint => none

/-- The listing line of an operation: its mnemonic, followed by its operand in decimal if it has one (R66). -/
def listing (i : Instr) : String :=
  match listedOperand i with
  | none => mnemonic i
  | some n => mnemonic i ++ " " ++ toString n

/-- The events of a listing line that has no operand: a class N command, or a pseudo-instruction (R66, R67). -/
def plainLine (m : String) : Option (List Event) :=
  match m with
  | "START" => some [encode .start]
  | "STOP" => some [encode .stop]
  | "RESET" => some [encode .reset]
  | "IS_READY" => some [encode .isReady]
  | "GET_STATUS" => some [encode .getStatus]
  | "GET_SCAN" => some [encode .getScan]
  | "GET_INVCNT" => some [encode .getInvcnt]
  | "VERIFY" => some [encode .verify]
  | "AVAILABLE" => some [encode .available]
  | "TEMP" => some [encode .temp]
  | "DEPTH" => some [encode .depth]
  | "DEVID" => some [encode .devid]
  | "SERID" => some [encode .serid]
  | "LOWBAT" => some [encode .lowbat]
  | "TXINT" => some [encode .txint]
  | "READMSG" => some (readMsg.map encode)
  | "READRAW" => some (readRaw.map encode)
  | "READFIELDS" => some (readFields.map encode)
  | _ => none

/-- The event of a listing line with one operand: `GET_RAW`, `GET_MSG`, `GET_NIB` with an 8-bit operand, in range or
not; `EDGE` with a timestamp; `.word` with a raw command word, for words that spell no mnemonic (R66). -/
def operandLine (m : String) (n : Nat) : Option (List Event) :=
  match m with
  | "GET_RAW" => if n < 256 then some [encode (.getRaw n)] else none
  | "GET_MSG" => if n < 256 then some [encode (.getMsg n)] else none
  | "GET_NIB" => if n < 256 then some [encode (.getNib n)] else none
  | "EDGE" => some [.edge n]
  | ".word" => if n < 65536 then some [.cmd (BitVec.ofNat 16 n)] else none
  | _ => none

/-- The value of a digit, if it is one. -/
def digitVal (c : Char) : Option Nat :=
  if '0' ≤ c ∧ c ≤ '9' then some (c.toNat - 48)
  else if 'a' ≤ c ∧ c ≤ 'f' then some (c.toNat - 87)
  else if 'A' ≤ c ∧ c ≤ 'F' then some (c.toNat - 55)
  else none

/-- A number in base `b` from its digits, the most significant first, continuing from `acc`. -/
def digitsFrom (b : Nat) : Nat → List Char → Option Nat
  | acc, [] => some acc
  | acc, c :: cs =>
    match digitVal c with
    | none => none
    | some d => if d < b then digitsFrom b (acc * b + d) cs else none

/-- A decimal number, or a hexadecimal one that begins with `0x` (R66). -/
def number : List Char → Option Nat
  | [] => none
  | '0' :: 'x' :: d :: ds => digitsFrom 16 0 (d :: ds)
  | c :: cs => digitsFrom 10 0 (c :: cs)

/-- A comment runs from `;` to the end of the line (R66). -/
def uncommented (line : List Char) : List Char := line.takeWhile fun c => c != ';'

/-- The words of a line, separated by blanks; `word` is the current word, its characters in reverse. -/
def wordsFrom : List Char → List Char → List (List Char)
  | [], [] => []
  | w :: ws, [] => [(w :: ws).reverse]
  | [], c :: cs => if c = ' ' ∨ c = '\t' then wordsFrom [] cs else wordsFrom [c] cs
  | w :: ws, c :: cs =>
    if c = ' ' ∨ c = '\t' then (w :: ws).reverse :: wordsFrom [] cs else wordsFrom (c :: w :: ws) cs

/-- The events a listing line spells, none when it is no line of the notation (R66, R67; log entry 12). -/
def assemble (line : String) : Option (List Event) :=
  match wordsFrom [] (uncommented line.toList) with
  | [] => some []
  | [m] => plainLine (String.ofList m)
  | [m, a] =>
    match number a with
    | none => none
    | some n => operandLine (String.ofList m) n
  | _ => none

end Sys2Proof.Machine
end

