-- ==== Sys2Proof/Tests/Slice0.lean ====
section
/-! SUPPORT. The model's own tests, with expected results from 95_test_vectors.md or worked out by hand from the rules,
and a witness for the hypotheses of every statement that has some. -/

namespace Sys2Proof.Tests

open Sys2Proof Sys2Proof.Machine

set_option maxRecDepth 20000

/-- EX1 of 95_test_vectors.md. -/
def ex1 : Config := ⟨32, 500, 25, 8000, 100⟩

/-- EX2 of 95_test_vectors.md: the windows overlap. -/
def ex2 : Config := ⟨32, 100, 20, 8000, 100⟩

/-- The RawMessage r1 of program P1. -/
def r1 : Vector Byte 9 := #v[0x11, 0x23, 0x45, 0x67, 0x89, 0x12, 0x34, 0x56, 0xE9]

/-- The Message M1 of 95_test_vectors.md section 2.5. -/
def m1 : Vector Byte 9 := #v[0x88, 0x4C, 0x2A, 0x6E, 0x19, 0x84, 0xC2, 0xA6, 0x79]

/-- The Message of program P3: M1 with byte 8 = 0x71. -/
def m3 : Vector Byte 9 := m1.set 8 0x71

/-- The frame timing rule of 95_test_vectors.md, as the intervals it puts in the buffer. -/
def frame (r : Vector Byte 9) : Vector Nat 144 :=
  Vector.ofFn fun i : Fin 144 =>
    if i.val % 2 = 1 ∧ r[i.val / 16].getLsbD (7 - i.val / 2 % 8) = true then 1000 else 500

/-- A state of an instance EX1 whose record is `b`. -/
def holding (b : Block) : State := { State.powerOn ex1 with block := b }

/-- "Seek" of 95_test_vectors.md section 2.2. -/
def seek (last : Nat) : Block := { Block.powerOn with bound := true, lastEdgeTime := last }

/-- Recording, bound, with every recorded interval 500. -/
def recording (cursor last : Nat) : Block :=
  { seek last with
    phase := .recording, cursor := cursor, scanTiming := 8000,
    tbuf := Vector.ofFn fun i : Fin 144 => if i.val < cursor then 500 else 0 }

/-- A completed capture of the buffer `buf`, bound. -/
def completed (buf : Vector Nat 144) : Block :=
  Block.complete ex1 { recording 144 96000 with running := false, tbuf := buf }

/-- A completed record that holds the message `m`; the other fields are those of power-on. -/
def message (m : Vector Byte 9) : Block := { Block.powerOn with running := false, msg := m }

/-- The record after an instruction. -/
def after (i : Instr) (b : Block) : Option Block :=
  match exec i (holding b) with
  | .next t => some t.block
  | _ => none

/-- The responses an instruction returns. -/
def answer (i : Instr) (b : Block) : Option (List (Status × Data)) :=
  match exec i (holding b) with
  | .next t => some (t.responses.map fun r => (r.status, r.data))
  | _ => none

/-- The record and the responses after one step on one event. -/
def stepped (e : Event) (b : Block) : Option (Block × List (Status × Data)) :=
  match step ((holding b).present e) with
  | .next t => some (t.block, t.responses.map fun r => (r.status, r.data))
  | _ => none

/-! ### Well-formedness: each check refuses an ill-formed term (30_encoding.md R57, R61) -/

theorem test_wf_byte_index : (Instr.getRaw 8).wf ex1 = true ∧ (Instr.getRaw 9).wf ex1 = false ∧
    (Instr.getMsg 8).wf ex1 = true ∧ (Instr.getMsg 9).wf ex1 = false := by decide

theorem test_wf_nibble_position :
    (Instr.getNib 17).wf ex1 = true ∧ (Instr.getNib 18).wf ex1 = false := by decide

theorem test_wf_timestamp :
    (Instr.edge 4294967295).wf ex1 = true ∧ (Instr.edge 4294967296).wf ex1 = false := by decide

/-! ### Decoding: every constructor by a word written out from R56 and R60 (opc in bits 15:8, idx in bits 7:0) -/

theorem test_decode_lifecycle :
    decodeCmd 0b0000000100000000 = .op .start ∧ decodeCmd 0b0000001000000000 = .op .stop ∧
    decodeCmd 0b0000001100000000 = .op .reset := by decide

theorem test_decode_capture_status :
    decodeCmd 0b0001000000000000 = .op .isReady ∧ decodeCmd 0b0001000100000000 = .op .getStatus ∧
    decodeCmd 0b0001001000000000 = .op .getScan ∧ decodeCmd 0b0001001100000000 = .op .getInvcnt := by decide

theorem test_decode_message_reads :
    decodeCmd 0b0010000000001000 = .op (.getRaw 8) ∧ decodeCmd 0b0010000100000101 = .op (.getMsg 5) ∧
    decodeCmd 0b0010001000010001 = .op (.getNib 17) := by decide

theorem test_decode_integrity :
    decodeCmd 0b0010100000000000 = .op .verify ∧ decodeCmd 0b0010100100000000 = .op .available := by decide

theorem test_decode_fields :
    decodeCmd 0b0011000000000000 = .op .temp ∧ decodeCmd 0b0011000100000000 = .op .depth ∧
    decodeCmd 0b0011001000000000 = .op .devid ∧ decodeCmd 0b0011001100000000 = .op .serid ∧
    decodeCmd 0b0011010000000000 = .op .lowbat ∧ decodeCmd 0b0011010100000000 = .op .txint := by decide

/-- V-EN10, V-EN13, V-EN14, V-EN17. -/
theorem test_decode_index_out_of_range :
    decodeCmd 0x2009 = .illegal .byteIndexOutOfRange ∧ decodeCmd 0x2109 = .illegal .byteIndexOutOfRange ∧
    decodeCmd 0x21FF = .illegal .byteIndexOutOfRange ∧ decodeCmd 0x2212 = .illegal .nibblePosOutOfRange := by decide

/-- V-EN21 to V-EN28. -/
theorem test_decode_reserved_words :
    decodeCmd 0x0000 = .illegal .unassignedOpc ∧ decodeCmd 0x0400 = .illegal .unassignedOpc ∧
    decodeCmd 0x1001 = .illegal .operandNotZero ∧ decodeCmd 0x0101 = .illegal .operandNotZero ∧
    decodeCmd 0x2300 = .illegal .unassignedOpc ∧ decodeCmd 0x3600 = .illegal .unassignedOpc ∧
    decodeCmd 0xFF00 = .illegal .unassignedOpc ∧ decodeCmd 0xFFFF = .illegal .unassignedOpc := by decide

/-- The rows of spec/opcode_table.json: a 16-bit row and the 32-bit row of the edge event. -/
theorem test_decode_table_words :
    decodeTableWord 16 0x0100 = some .start ∧ decodeTableWord 16 0x2111 = none ∧
    decodeTableWord 16 0x220D = some (.getNib 13) ∧ decodeTableWord 32 9500 = some (.edge 9500) := by decide

/-- The response words of R59 and the symbol codes of 10_state.md R28. -/
theorem test_codes :
    (Response.mk .ok 0x138).word = 0x000000138#34 ∧ (Response.mk .notReady 0).word = 0x100000000#34 ∧
    (Response.mk .invalid 0).word = 0x200000000#34 ∧ (Response.mk .illegal 0).word = 0x300000000#34 ∧
    Symbol.s0.code = 0b00 ∧ Symbol.s1.code = 0b01 ∧ Symbol.sinv.code = 0b10 := by decide

/-! ### The listing notation (30_encoding.md R66, R67) -/

theorem test_pseudo_instructions :
    readMsg.map encode = [.cmd 0x2100, .cmd 0x2101, .cmd 0x2102, .cmd 0x2103, .cmd 0x2104, .cmd 0x2105, .cmd 0x2106,
      .cmd 0x2107, .cmd 0x2108] ∧
    readFields.map encode = [.cmd 0x3000, .cmd 0x3100, .cmd 0x3200, .cmd 0x3300, .cmd 0x3400, .cmd 0x3500] := by decide

theorem test_listing_lines :
    assemble "        GET_NIB 13            ; 0x220D" = some [.cmd 0x220D] ∧
    assemble "GET_NIB 0x0d" = some [.cmd 0x220D] ∧ assemble "EDGE 9500" = some [.edge 9500] ∧ assemble ".word 0x1001" = some [.cmd 0x1001] ∧
    assemble "GET_MSG 9" = some [.cmd 0x2109] ∧ assemble "NOP" = none := by decide

/-! ### One step of the machine -/

/-- A step consumes the event and runs it: START from power-on, presented as the host presents it. -/
theorem test_step_after_reset :
    (match step (State.reset.withFetchWord 16 0x0100) with
      | .next t => some (t.block.bound, t.events, t.responses)
      | _ => none) = some (true, [], [⟨.ok, 0⟩]) := by decide

/-- 60_exceptions.md R162, V-EN24: an illegal word is answered ILLEGAL 0 and sets nothing, `bound` included. -/
theorem test_step_illegal_word :
    stepped (.cmd 0x0101) Block.powerOn = some (Block.powerOn, [(.illegal, 0)]) ∧
    stepped (.cmd 0x1001) (recording 57 42500) = some (recording 57 42500, [(.illegal, 0)]) := by decide

/-- V-CA13. -/
theorem test_start_from_power_on :
    after .start Block.powerOn = some (seek 0) ∧ answer .start Block.powerOn = some [(.ok, 0)] := by decide

/-- V-CA18. -/
theorem test_start_while_recording : after .start (recording 30 24000) = some (seek 24000) := by decide

/-- V-CA15. -/
theorem test_stop_while_recording :
    after .stop (recording 10 14000) = some { recording 10 14000 with bound := false } ∧
    answer .stop (recording 10 14000) = some [(.ok, 0)] := by decide

/-- V-CA16. -/
theorem test_reset_of_a_completed_capture :
    after .reset (completed (frame r1)) = some (seek 96000) ∧
    answer .reset (completed (frame r1)) = some [(.ok, 0)] := by decide

/-- V-CA17. -/
theorem test_reset_while_unbound :
    after .reset { recording 10 14000 with bound := false } = some { seek 14000 with bound := false } := by decide

/-- V-CA19, program P1. -/
theorem test_isReady :
    answer .isReady Block.powerOn = some [(.ok, 0)] ∧ answer .isReady (message m1) = some [(.ok, 1)] := by decide

/-- V-CA20 to V-CA22. -/
theorem test_getStatus_flags :
    answer .getStatus Block.powerOn = some [(.ok, 0x00000001)] ∧ answer .getStatus (seek 0) = some [(.ok, 0x00000005)] ∧
    answer .getStatus (recording 0 9000) = some [(.ok, 0x00000007)] := by decide

/-- V-CA23 to V-CA26. -/
theorem test_getStatus_cursor :
    answer .getStatus (recording 57 42500) = some [(.ok, 0x00003907)] ∧
    answer .getStatus { recording 10 14000 with bound := false } = some [(.ok, 0x00000A03)] ∧
    answer .getStatus (completed (frame r1)) = some [(.ok, 0x00009006)] ∧
    answer .getStatus { completed (frame r1) with bound := false } = some [(.ok, 0x00009002)] := by decide

/-- V-CA27, V-CA28; R85: a wider scanning timing shows its low 32 bits. -/
theorem test_getScan :
    answer .getScan (seek 0) = some [(.ok, 0)] ∧
    answer .getScan { recording 0 8700 with scanTiming := 7700 } = some [(.ok, 0x00001E14)] ∧
    answer .getScan { recording 0 8700 with scanTiming := 4294967301 } = some [(.ok, 5)] := by decide

/-- Programs P2 (every interval 300) and P5 (the second interval 700). -/
theorem test_getInvcnt :
    answer .getInvcnt (completed (Vector.replicate 144 300)) = some [(.ok, 72)] ∧
    answer .getInvcnt (completed ((frame r1).set 1 700)) = some [(.ok, 1)] ∧
    answer .getInvcnt (recording 57 42500) = some [(.notReady, 0)] := by decide

/-- Program P1. -/
theorem test_getRaw :
    answer (.getRaw 0) (completed (frame r1)) = some [(.ok, 0x11)] ∧
    answer (.getRaw 8) (completed (frame r1)) = some [(.ok, 0xE9)] ∧
    answer (.getRaw 9) (completed (frame r1)) = some [(.illegal, 0)] ∧
    answer (.getRaw 9) (recording 57 42500) = some [(.illegal, 0)] := by decide

/-- Program P1. -/
theorem test_getMsg :
    answer (.getMsg 0) (completed (frame r1)) = some [(.ok, 0x88)] ∧
    answer (.getMsg 8) (completed (frame r1)) = some [(.ok, 0x79)] ∧
    answer (.getMsg 9) (completed (frame r1)) = some [(.illegal, 0)] ∧
    answer (.getMsg 0) (recording 57 42500) = some [(.notReady, 0)] := by decide

/-- V-FD32. -/
theorem test_getNib :
    ((List.range 18).map fun p => answer (.getNib p) (message m1)) =
      [8, 8, 4, 0xC, 2, 0xA, 6, 0xE, 1, 9, 8, 4, 0xC, 2, 0xA, 6, 7, 9].map fun d => some [(.ok, d)] := by decide

/-- Program P1. -/
theorem test_getNib_out_of_range :
    answer (.getNib 18) (message m1) = some [(.illegal, 0)] ∧
    answer (.getNib 17) (recording 57 42500) = some [(.notReady, 0)] := by decide

/-- V-IN1, V-IN3 and the command gating of section 2.5. -/
theorem test_verify :
    answer .verify (message m1) = some [(.ok, 1)] ∧ answer .verify (message (m1.set 8 0x78)) = some [(.ok, 0)] ∧
    answer .verify (recording 57 42500) = some [(.notReady, 0)] := by decide

/-- V-CA29, programs P1 and P3. -/
theorem test_available :
    answer .available Block.powerOn = some [(.ok, 0)] ∧ answer .available (message m1) = some [(.ok, 1)] ∧
    answer .available (message m3) = some [(.ok, 0)] := by decide

/-- V-FD2 to V-FD8: 399, 400, 401, 712, 999, 1000, 1001 tenths. -/
theorem test_temp :
    ([#v[0, 0, 0, 0, 0, 0xF0, 0x81, 0, 0x71], #v[0, 0, 0, 0, 0, 0x00, 0x91, 0, 0x91],
      #v[0, 0, 0, 0, 0, 0x10, 0x91, 0, 0x81], #v[0, 0, 0, 0, 0, 0x80, 0xC2, 0, 0x42],
      #v[0, 0, 0, 0, 0, 0x70, 0xE3, 0, 0x93], #v[0, 0, 0, 0, 0, 0x80, 0xE3, 0, 0x63],
      #v[0, 0, 0, 0, 0, 0x90, 0xE3, 0, 0x73]].map fun m => answer .temp (message m)) =
      [0xFFFFFFD8, 0, 1, 312, 599, 600, 0xFFFFFFD8].map fun d => some [(.ok, d)] := by decide

/-- V-FD33, program P3: the gate of a field command. -/
theorem test_temp_gate :
    answer .temp (message m3) = some [(.invalid, 0)] ∧ answer .temp (recording 57 42500) = some [(.notReady, 0)] := by
  decide

/-- V-FD11 to V-FD14. -/
theorem test_depth :
    ([#v[0, 0, 0, 0x00, 0x10, 0, 0, 0, 0x10], #v[0, 0, 0, 0x21, 0x30, 0, 0, 0, 0x11],
      #v[0, 0, 0, 0x6E, 0x10, 0, 0, 0, 0x7E], #v[0, 0, 0, 0xFF, 0xF0, 0, 0, 0, 0x0F]].map fun m =>
        answer .depth (message m)) = [1, 291, 3681, 4095].map fun d => some [(.ok, d)] := by decide

/-- V-FD15 and program P1. -/
theorem test_devid :
    answer .devid (message #v[0, 0xE1, 0xF0, 0, 0x0F, 0, 0, 0, 0x1E]) = some [(.ok, 0xF0)] ∧
    answer .devid (message m1) = some [(.ok, 0x2A)] := by decide

/-- V-FD15 and program P1. -/
theorem test_serid :
    answer .serid (message #v[0, 0xE1, 0xF0, 0, 0x0F, 0, 0, 0, 0x1E]) = some [(.ok, 0x1E)] ∧
    answer .serid (message m1) = some [(.ok, 0xC4)] := by decide

/-- V-FD15 and program P1. -/
theorem test_lowbat :
    answer .lowbat (message #v[0, 0xE1, 0xF0, 0, 0x0F, 0, 0, 0, 0x1E]) = some [(.ok, 15)] ∧
    answer .lowbat (message m1) = some [(.ok, 9)] := by decide

/-- V-FD16 to V-FD31. -/
theorem test_txint :
    ((List.range 16).map fun v => answer .txint
        (message #v[0, 0, 0, 0, 0, BitVec.ofNat 8 v, 0, 0, BitVec.ofNat 8 v])) =
      [180, 5, 0, 5, 0, 5, 0, 5, 30, 5, 30, 5, 30, 5, 30, 5].map fun d => some [(.ok, d)] := by decide

/-- V-CA1 to V-CA7: the scan-gap window, its four edges, the interval 0 and a timestamp that wrapped. -/
theorem test_edge_in_seeking :
    after (.edge 8700) (seek 1000) = some { recording 0 8700 with scanTiming := 7700 } ∧
    after (.edge 9300) (seek 1000) = some { recording 0 9300 with scanTiming := 8300 } ∧
    after (.edge 8699) (seek 1000) = some (seek 8699) ∧ after (.edge 9301) (seek 1000) = some (seek 9301) ∧
    after (.edge 1000) (seek 1000) = some (seek 1000) ∧
    after (.edge 5000) (seek 4294964296) = some (recording 0 5000) ∧
    after (.edge 8000) (seek 0) = some (recording 0 8000) := by decide

/-- V-CA8, V-CA9, V-CA12: recording, and an unbound block; an edge returns no response. -/
theorem test_edge_otherwise :
    after (.edge 9500) (recording 0 9000) =
      some { recording 0 9500 with tbuf := (Vector.replicate 144 0).set 0 500, cursor := 1 } ∧
    after (.edge 28000) (recording 5 20000) =
      some { recording 6 28000 with tbuf := (recording 5 20000).tbuf.set 5 8000 } ∧
    after (.edge 20000) { seek 10000 with bound := false } = some { seek 10000 with bound := false } ∧
    answer (.edge 9500) (recording 0 9000) = some [] := by decide

/-- V-CA10, V-CA11: the edge that completes the capture of program P1, and one after it. -/
theorem test_edge_completes :
    (after (.edge 96000) { recording 143 95000 with tbuf := (frame r1).set 143 0 }).map
        (fun b => (b.cursor, b.running, b.raw, b.msg)) = some (144, false, r1, m1) ∧
    after (.edge 96500) (message m1) = some (message m1) ∧
    after (.edge 96500) { message m1 with bound := true } =
      some { message m1 with bound := true, lastEdgeTime := 96500 } := by decide

/-! ### The functions of the data path -/

/-- V-CL1 to V-CL16, under EX1. -/
theorem test_classify_ex1 :
    [(500, 500), (500, 1000), (450, 550), (550, 450), (450, 900), (550, 1100), (449, 500), (551, 500), (500, 551),
      (500, 899), (500, 1101), (500, 700), (1000, 500), (1000, 1000), (0, 0), (300, 300)].map
        (fun p => classify ex1 p.1 p.2) =
      [.s0, .s1, .s0, .s0, .s1, .s1, .sinv, .sinv, .sinv, .sinv, .sinv, .sinv, .sinv, .sinv, .sinv, .sinv] := by decide

/-- V-CL17 to V-CL22, under EX2, and the corner case of R95. -/
theorem test_classify_overlap :
    [(100, 130), (100, 120), (60, 140), (100, 150), (140, 280), (100, 59), (141, 100), (100, 281)].map
        (fun p => classify ex2 p.1 p.2) = [.s0, .s0, .s0, .s1, .s1, .sinv, .sinv, .sinv] ∧
    classify ⟨32, 40, 25, 8000, 100⟩ 0 0 = .s0 := by decide

/-- V-AS1. -/
theorem test_rev4 :
    ((List.range 16).map fun n => (rev4 (BitVec.ofNat 4 n)).toNat) =
      [0x0, 0x8, 0x4, 0xC, 0x2, 0xA, 0x6, 0xE, 0x1, 0x9, 0x5, 0xD, 0x3, 0xB, 0x7, 0xF] := by decide

/-- V-AS2, V-AS5, program P1: the frame of r1 decodes to r1 and M1. -/
theorem test_decode_of_a_frame :
    (decodeBuffer ex1 (frame r1)).raw = r1 ∧ (decodeBuffer ex1 (frame r1)).msg = m1 ∧
    (decodeBuffer ex1 (frame r1)).invCount = 0 := by decide

/-- V-AS6: an Invalid symbol packs as 0. -/
theorem test_pack_invalid_symbol :
    (packBytes (((Vector.replicate 72 Symbol.s0).set 0 .sinv).set 4 .sinv |>.set 3 .s1 |>.set 7 .s1))[0] = 0x11 := by
  decide

/-- V-IN1 to V-IN8. -/
theorem test_verifies :
    [m1, m1.set 3 0x6F, m1.set 8 0x78, (m1.set 0 0x89).set 1 0x4D, (m1.set 0 0x98).set 8 0x69,
      (m1.set 0 0xA6).set 7 0x88, Vector.replicate 9 0, r1].map (fun m => ((checksum m).toNat, verifies m)) =
      [(0x79, true), (0x78, false), (0x79, false), (0x79, true), (0x69, true), (0x79, true), (0, true), (0xE9, true)] := by
  decide

/-! ### The hypotheses of the statements are met: one witness for each statement, clause by clause -/

/-- A state of an instance EX1 with the record `b` and the events `es` to come. -/
def facing (es : List Event) (b : Block) : State := { holding b with events := es }

theorem seek_inv (es : List Event) {last : Nat} (h : last < 2 ^ 32) : Inv (facing es (seek last)) where
  timeW_pos := show 1 ≤ 32 by decide
  block :=
    { cursor_le := Nat.zero_le _
      seeking := fun _ => ⟨rfl, rfl, rfl, by simp [facing, holding, seek, Block.powerOn]⟩
      complete_iff := by simp [facing, holding, seek, Block.powerOn]
      complete_phase := by simp [facing, holding, seek, Block.powerOn]
      decoded := by simp [facing, holding, seek, Block.powerOn]
      clear := by simp [facing, holding, seek, Block.powerOn]
      unrecorded := by simp [facing, holding, seek, Block.powerOn]
      lastEdgeTime_lt := h
      scanTiming_lt := Nat.two_pow_pos _
      tbuf_lt := by simp [facing, holding, seek, Block.powerOn, State.powerOn, ex1]
      invCount_le := Nat.zero_le _ }

theorem recording_inv (es : List Event) {cursor last : Nat} (hc : cursor < 144) (h : last < 2 ^ 32) :
    Inv (facing es (recording cursor last)) where
  timeW_pos := show 1 ≤ 32 by decide
  block :=
    { cursor_le := Nat.le_of_lt hc
      seeking := by simp [facing, holding, recording]
      complete_iff := by simpa [facing, holding, recording, seek, Block.powerOn] using Nat.ne_of_lt hc
      complete_phase := by simp [facing, holding, recording]
      decoded := by simp [facing, holding, recording, seek, Block.powerOn]
      clear := fun _ => ⟨by simp [facing, holding, recording, seek, Block.powerOn],
        by simp [facing, holding, recording, seek, Block.powerOn],
        by simp [facing, holding, recording, seek, Block.powerOn], rfl⟩
      unrecorded := fun _ _ i hi => by
        have : ¬ i.val < cursor := Nat.not_lt.mpr hi
        simp [facing, holding, recording, this]
      lastEdgeTime_lt := h
      scanTiming_lt := show 8000 < 2 ^ 32 by decide
      tbuf_lt := fun i => by
        simp only [facing, holding, recording, State.powerOn, ex1, Fin.getElem_fin, Vector.getElem_ofFn]
        split <;> decide
      invCount_le := Nat.zero_le _ }

theorem completed_inv (es : List Event) (buf : Vector Nat 144) (h : ∀ i : Fin 144, buf[i] < 2 ^ 32) :
    Inv (facing es (completed buf)) where
  timeW_pos := show 1 ≤ 32 by decide
  block :=
    { cursor_le := by simp [facing, holding, completed, recording]
      seeking := by simp [facing, holding, completed, recording]
      complete_iff := by simp [facing, holding, completed, recording]
      complete_phase := by simp [facing, holding, completed, recording]
      decoded := by simp [facing, holding, completed, State.powerOn]
      clear := by simp [facing, holding, completed]
      unrecorded := by simp [facing, holding, completed]
      lastEdgeTime_lt := by simp [facing, holding, completed, recording, seek, State.powerOn, ex1]
      scanTiming_lt := by simp [facing, holding, completed, recording, State.powerOn, ex1]
      tbuf_lt := by simpa [facing, holding, completed, State.powerOn, ex1] using h
      invCount_le := by
        simpa [facing, holding, completed, countInvalid] using Vector.countP_le_size }

/-- ResetMeetsTheInvariant, ReachableStatesMeetR34: the least TIME_W. -/
theorem test_hyp_parameters : Config.wf ⟨1, 0, 0, 0, 0⟩ ∧ Config.wf ex1 := by decide

/-- StepRunsTheDecodedInstruction: an event of either port, and the last word of the map. -/
theorem test_hyp_step_runs :
    (facing [.cmd 0x2108, .edge 5] (seek 0)).events = .cmd 0x2108 :: [.edge 5] ∧
    decodeEvent (.cmd 0x2108) = .op (.getMsg 8) ∧
    (facing [.edge 5] (seek 0)).events = .edge 5 :: [] ∧ decodeEvent (.edge 5) = .op (.edge 5) ∧
    decodeCmd 0x3500 = .op .txint := by decide

/-- EveryStepAnswersANextState: no event. -/
theorem test_hyp_no_event : (holding (seek 0)).events = [] := rfl

/-- IllegalWordsAndTheirAnswer: a word of each kind. -/
theorem test_hyp_illegal_word :
    (facing [.cmd 0x2009] (seek 0)).events = .cmd 0x2009 :: [] ∧ decodeCmd 0x2009 = .illegal .byteIndexOutOfRange ∧
    decodeCmd 0x2212 = .illegal .nibblePosOutOfRange ∧ decodeCmd 0x35FF = .illegal .operandNotZero ∧
    decodeCmd 0x3600 = .illegal .unassignedOpc := by decide

/-- DecodeAndEncodeAgree: the greatest timestamp of the port, and both sides of the equivalence. -/
theorem test_hyp_decode_and_encode :
    (∀ now, Event.edge 4294967295 = .edge now → now < 2 ^ ex1.timeW) ∧
    decodeEvent (.edge 4294967295) = .op (.edge 4294967295) ∧ (Instr.getNib 17).wf ex1 = true ∧
    encode (.getNib 17) = .cmd 0x2211 := by
  refine ⟨fun now h => ?_, by decide⟩
  cases h
  decide

/-- ResponseFormat: an event of each port, and a response whose status is not OK. -/
theorem test_hyp_response_format :
    (facing [.cmd 0x2100] (seek 0)).events = .cmd 0x2100 :: [] ∧
    (facing [.edge 9] (seek 0)).events = .edge 9 :: [] ∧
    answer (.getMsg 0) (seek 0) = some [(.notReady, 0)] := by decide

/-- StatusPrecedence: each rank of the order. -/
theorem test_hyp_status_precedence :
    (facing [.cmd 0x3000] (message m3)).events = .cmd 0x3000 :: [] ∧
    decodeCmd 0x3001 = .illegal .operandNotZero ∧ decodeCmd 0x3000 = .op .temp ∧
    (gatedByRunning .temp = true ∧ (seek 0).running = true) ∧
    (gatedByChecksum .temp = true ∧ (message m3).running = false ∧ verifies (message m3).msg = false) ∧
    (¬ (gatedByRunning .temp = true ∧ (message m1).running = true) ∧
      ¬ (gatedByChecksum .temp = true ∧ verifies (message m1).msg = false)) ∧
    (Instr.verify = .verify ∧ (message m3).running = false ∧ verifies (message m3).msg = false) := by decide

/-- StartBindsAndClears, StopUnbindsOnly: a bound block, an unfinished capture and a completed one. -/
theorem test_hyp_lifecycle :
    (seek 7).bound = true ∧ (recording 10 14000).running = true ∧ (message m1).running = false ∧
    (after .stop (recording 10 14000)).isSome = true ∧ (after .stop (message m1)).isSome = true := by decide

/-- GetStatusLayout, GetScanReturnsTheScanningTiming: the invariant holds before and after completion, and in
Seeking. -/
theorem test_hyp_status_reads :
    Inv (facing [] (recording 143 0)) ∧ Inv (facing [] (completed (frame r1))) ∧
    (Inv (facing [] (seek 4294967295)) ∧ (seek 4294967295).phase = .seeking) :=
  ⟨recording_inv _ (by decide) (by decide), completed_inv _ _ (by decide), seek_inv _ (by decide), rfl⟩

/-- GetRawReadsOneByte, GetMsgReadsOneByte, GetNibReadsOneNibble, GetInvcntReadsTheCount: the greatest index, the first
one out of range, both values of running, and the greatest count. -/
theorem test_hyp_indexed_reads :
    ((0x08#8).toNat ≤ 8 ∧ 8 < (0x09#8).toNat) ∧ ((0x11#8).toNat ≤ 17 ∧ 17 < (0x12#8).toNat) ∧
    (8 ≤ 8 ∧ 17 ≤ 17 ∧ (seek 0).running = true) ∧ (message m1).running = false ∧
    ({ message m1 with invCount := 72 }).invCount ≤ 72 := by decide

/-- VerifyReportsTheChecksum, AvailableReportsAVerifiedCapture and the six field commands: a running capture, a
completed one that fails, and a completed one that verifies. -/
theorem test_hyp_gates :
    (seek 0).running = true ∧ ((message m3).running = false ∧ verifies (message m3).msg = false) ∧
    ((message m1).running = false ∧ verifies (message m1).msg = true) := by decide

/-- TempReturnsTheTemperature: raw temperatures 400, 1000, 399 and 1001, each in a message that verifies. -/
theorem test_hyp_temperature :
    [(#v[0, 0, 0, 0, 0, 0x00, 0x91, 0, 0x91] : Vector Byte 9), #v[0, 0, 0, 0, 0, 0x80, 0xE3, 0, 0x63],
      #v[0, 0, 0, 0, 0, 0xF0, 0x81, 0, 0x71], #v[0, 0, 0, 0, 0, 0x90, 0xE3, 0, 0x73]].map
        (fun m => (verifies m, (nibble m 13).toNat <<< 8 ||| (nibble m 12).toNat <<< 4 |||
          (nibble m 10).toNat)) = [(true, 400), (true, 1000), (true, 399), (true, 1001)] := by decide

/-- TxintReturnsTheInterval: a nibble of each class, in a message that verifies. -/
theorem test_hyp_transmit_interval :
    ([15, 8, 0, 6].map fun v => verifies #v[0, 0, 0, 0, 0, BitVec.ofNat 8 v, 0, 0, BitVec.ofNat 8 v]) =
      [true, true, true, true] ∧
    15 ∈ [1, 3, 5, 7, 9, 11, 13, 15] ∧ 8 ∈ [8, 10, 12, 14] ∧ 6 ∈ [2, 4, 6] ∧ 0x0F % 16 = 15 := by decide

/-- NibbleAddressing: the last even and the last odd position. -/
theorem test_hyp_nibble_positions : (16 : Fin 18).val % 2 = 0 ∧ (17 : Fin 18).val % 2 = 1 := by decide

/-- FieldsReadNibblesTwoToThirteen: two messages that verify and differ in nibbles 0, 1, 14, 15 and the checksum. -/
theorem test_hyp_hidden_nibbles :
    gatedByChecksum .temp = true ∧ (message m1).running = false ∧ verifies (message m1).msg = true ∧
    verifies (((m1.set 0 0x77).set 7 0x00).set 8 0x20) = true ∧
    ∀ p : Fin 18, 2 ≤ p.val → p.val ≤ 13 →
      nibble (((m1.set 0 0x77).set 7 0x00).set 8 0x20) p = nibble (message m1).msg p := by decide

/-- EdgeStep: the interval hypotheses at the greatest timestamp, and each clause of the step. -/
theorem test_hyp_edge_step :
    (4294967295 < 2 ^ ex1.timeW ∧ ((4294967295 : Nat) : Int) = ((4294967295 : Nat) - (0 : Nat) : Int) % 2 ^ ex1.timeW) ∧
    ({ seek 0 with bound := false }).bound = false ∧
    ({ message m1 with bound := true }).bound = true ∧ ({ message m1 with bound := true }).running = false ∧
    ((seek 0).bound = true ∧ (seek 0).running = true ∧ (seek 0).phase = .seeking) ∧
    ((recording 143 0).bound = true ∧ (recording 143 0).running = true ∧ (recording 143 0).phase = .recording) := by
  decide

/-- EdgeStep: a timestamp that wrapped (V-CA6), and one equal to the last (V-CA5). -/
theorem test_hyp_edge_wrap :
    ((seek 4294964296).lastEdgeTime < 2 ^ ex1.timeW ∧ 5000 < (seek 4294964296).lastEdgeTime ∧ 5000 < 2 ^ ex1.timeW ∧
      ((8000 : Nat) : Int) = ((5000 : Nat) - ((seek 4294964296).lastEdgeTime : Int)) % 2 ^ ex1.timeW) ∧
    (1000 = (seek 1000).lastEdgeTime ∧
      ((0 : Nat) : Int) = ((1000 : Nat) - ((seek 1000).lastEdgeTime : Int)) % 2 ^ ex1.timeW) := by decide

/-- ScanGapStartsRecording: the two bounds of the window and the intervals next to them (V-CA1 to V-CA4). -/
theorem test_hyp_scan_gap :
    (8700 < 2 ^ ex1.timeW ∧ ((7700 : Nat) : Int) = ((8700 : Nat) - ((seek 1000).lastEdgeTime : Int)) % 2 ^ ex1.timeW ∧
      (seek 1000).bound = true ∧ (seek 1000).running = true ∧ (seek 1000).phase = .seeking) ∧
    |((7700 : Nat) : Int) - ex1.scanGap| ≤ 3 * ex1.scanDelta ∧ |((8300 : Nat) : Int) - ex1.scanGap| ≤ 3 * ex1.scanDelta ∧
    ¬ |((7699 : Nat) : Int) - ex1.scanGap| ≤ 3 * ex1.scanDelta ∧
    ¬ |((8301 : Nat) : Int) - ex1.scanGap| ≤ 3 * ex1.scanDelta := by decide

/-- RecordStoresAndCompletes: the last cursor that does not complete, and the one that does. -/
theorem test_hyp_record :
    (96000 < 2 ^ ex1.timeW ∧
      ((1000 : Nat) : Int) = ((96000 : Nat) - ((recording 142 95000).lastEdgeTime : Int)) % 2 ^ ex1.timeW) ∧
    ((recording 142 95000).bound = true ∧ (recording 142 95000).running = true ∧
      (recording 142 95000).phase = .recording ∧ (recording 142 95000).cursor < 143) ∧
    ((recording 143 95000).bound = true ∧ (recording 143 95000).running = true ∧
      (recording 143 95000).phase = .recording ∧ (recording 143 95000).cursor = 143) := by decide

/-- ClassifierWindows, ClassifyByWindows, WindowsOverlapExactlyWhen: each clause, at a bound of a window. -/
theorem test_hyp_classifier :
    40 ≤ 2 * 25 ∧ 2 * ex1.delta < ex1.period ∧ (isShort ex1 450 = true ∧ isShort ex1 550 = true) ∧
    (isShort ex1 550 = true ∧ isLong ex1 900 = true ∧ isShort ex1 900 = false) ∧
    (6 * ex1.delta < ex1.period ∧ isLong ex1 1100 = true) ∧ isShort ex1 551 = false ∧
    (isShort ex1 899 = false ∧ isLong ex1 899 = false) ∧
    (isShort ex2 60 = true ∧ isShort ex2 140 = true ∧ isLong ex2 140 = true ∧ ex2.period ≤ 6 * ex2.delta) := by decide

/-- RoundTripAndInvolution, InvalidCountCountsInvalidSymbols: a string without SINV, one with, and two strings that
differ but have the same bits. -/
theorem test_hyp_symbols :
    (∀ k : Fin 72, (Vector.replicate 72 Symbol.s1)[k] ≠ .sinv) ∧
    ((Vector.replicate 72 Symbol.s1).set 71 .sinv)[(71 : Fin 72)] = .sinv ∧
    (∀ k : Fin 72, (Vector.replicate 72 Symbol.s0)[k].bitval = ((Vector.replicate 72 Symbol.s0).set 71 .sinv)[k].bitval) := by
  decide

/-- EncodedFrameDecodesToItsBytes: the frame of program P1. -/
theorem test_hyp_encoded_frame :
    6 * ex1.delta < ex1.period ∧
    ∀ k : Fin 72, (frame r1)[2 * k.val] = ex1.period ∧
      (frame r1)[2 * k.val + 1] = if r1[k.val / 8].getLsbD (7 - k.val % 8) = true then 2 * ex1.period else ex1.period := by
  decide

/-- NoiseVerifiesAsAnEmptyMessage: program P2, every interval 300. -/
theorem test_hyp_noise :
    Inv (facing [] (completed (Vector.replicate 144 300))) ∧
    (completed (Vector.replicate 144 300)).running = false ∧
    ∀ k : Fin 72, classify ex1 ((completed (Vector.replicate 144 300)).tbuf[2 * k.val])
      ((completed (Vector.replicate 144 300)).tbuf[2 * k.val + 1]) = .sinv := by
  refine ⟨completed_inv _ _ (by simp), by simp [completed], fun k => ?_⟩
  simp only [completed, Block.complete_tbuf, Vector.getElem_replicate]
  decide

/-- ChecksumIgnoresByteOrder: V-IN6. -/
theorem test_hyp_permutation :
    (m1.toList.take 8).Perm (((m1.set 0 0xA6).set 7 0x88).toList.take 8) ∧ m1[8] = ((m1.set 0 0xA6).set 7 0x88)[8] := by
  decide

/-- SingleByteChangeDetectedCancellingPairNot: a change of byte 0 and of byte 8, and a pair that takes in byte 8. -/
theorem test_hyp_byte_changes :
    verifies m1 = true ∧ (0x89 : Byte) ≠ m1[(0 : Fin 9)] ∧ (0x78 : Byte) ≠ m1[(8 : Fin 9)] ∧ (0 : Fin 9) ≠ 8 := by decide

/-- ReadCommandsAreIdempotent, OrderOfAnEdgeAndACommand: a read command, and the edge that completes a capture. -/
theorem test_hyp_reads :
    isRead (.getMsg 8) = true ∧ ((message m1).running = false ∧ decodeCmd 0x2108 = .op (.getMsg 8)) ∧
    ((recording 143 0).bound = true ∧ (recording 143 0).running = true ∧ (recording 143 0).phase = .recording ∧
      (recording 143 0).cursor = 143) := by decide

/-- WritersOfEachField: for each clause a command or an edge that changes the field. -/
theorem test_hyp_writers :
    (after .stop (seek 0)).map (·.bound) ≠ some (seek 0).bound ∧
    (after (.edge 9) (seek 0)).map (·.lastEdgeTime) ≠ some (seek 0).lastEdgeTime ∧
    (after (.edge 8000) (seek 0)).map (·.phase) ≠ some (seek 0).phase ∧
    (after (.edge 9) (recording 143 0)).map (·.running) ≠ some (recording 143 0).running ∧
    (after .reset (message m1)).map (·.running) ≠ some (message m1).running ∧
    (after (.edge 9) (recording 142 0)).map (·.cursor) ≠ some (recording 142 0).cursor ∧
    (Instr.stop = .stop ∧ isRead .txint = true) := by decide

/-- The record of `message m1` with other values in the three fields that no command reads. -/
def disguised : Block :=
  { message m1 with lastEdgeTime := 5, tbuf := Vector.replicate 144 7, sym := Vector.replicate 72 .s1 }

/-- HiddenStateReachesNoResponse: two records that differ in the three hidden fields. -/
theorem test_hyp_hidden_state :
    (∀ now, Instr.getMsg 0 ≠ .edge now) ∧ (holding disguised).block ≠ (holding (message m1)).block ∧
    (holding disguised).block = { (holding (message m1)).block with
      lastEdgeTime := (holding disguised).block.lastEdgeTime, tbuf := (holding disguised).block.tbuf,
      sym := (holding disguised).block.sym } :=
  ⟨fun _ => Instr.noConfusion, by decide, rfl⟩

/-- EveryStepKeepsTheInvariant: the edge that completes a capture. -/
theorem test_hyp_step_keeps_inv :
    ∃ t, Inv (facing [.edge 500] (recording 143 0)) ∧ step (facing [.edge 500] (recording 143 0)) = .next t :=
  ⟨_, recording_inv _ (by decide) (by decide), rfl⟩

/-- CompletedCaptureIsStable: a completed capture that faces an edge, a STOP, a read and an illegal word. -/
theorem test_hyp_completed_stable :
    (facing [.edge 96500, .cmd 0x0200, .cmd 0x2100, .cmd 0x0301] (message m1)).block.running = false ∧
    (facing [.edge 96500, .cmd 0x0200, .cmd 0x2100, .cmd 0x0301] (message m1)).noRestart = true := by decide

/-- StoppedCaptureNeverFinishes: one edge short of completion, with edges to come. -/
theorem test_hyp_stopped_capture :
    (facing [.edge 500, .edge 1000, .cmd 0x1000] (recording 143 0)).block.running = true ∧
    (facing [.edge 500, .edge 1000, .cmd 0x1000] (recording 143 0)).noRestart = true ∧
    (after .stop (recording 143 0)).isSome = true := by decide

/-- CaptureFillsTheBufferInOrder: 144 edges with reads among them, from Recording with cursor 0. -/
theorem test_hyp_capture :
    ∀ evs : List Event, evs = .cmd 0x1000 :: ((List.range 144).map fun k => Event.edge (9500 + 500 * k)) ++ [.cmd 0x2100] →
      (recording 0 9000).bound = true ∧ (recording 0 9000).running = true ∧ (recording 0 9000).phase = .recording ∧
      (recording 0 9000).cursor = 0 ∧ (facing (evs ++ [.edge 0]) (recording 0 9000)).events = evs ++ [.edge 0] ∧
      (edgeTimes evs).length = 144 ∧ (∀ now ∈ edgeTimes evs, now < 2 ^ ex1.timeW) ∧
      ∀ e ∈ evs, restarts e = false ∧ decodeEvent e ≠ .op .stop := by
  rintro _ rfl
  decide

/-- NineReadsReturnOneCapture: the nine reads with an edge between two of them. -/
theorem test_hyp_nine_reads :
    (message m1).running = false ∧
    ([.cmd 0x2100, .edge 96500, .cmd 0x2101, .cmd 0x2102, .cmd 0x2103, .cmd 0x2104, .cmd 0x2105, .cmd 0x2106,
      .cmd 0x2107, .cmd 0x2108, .edge 97000].filter fun e => !isEdge e) =
      ((List.range 9).map fun b => encode (.getMsg b)) := by decide

/-- ReadyOutputRisesAndFalls: a step that raises ready_o, and one that lowers it. -/
theorem test_hyp_ready_output :
    (∃ t, Inv (facing [.edge 500] (recording 143 0)) ∧ step (facing [.edge 500] (recording 143 0)) = .next t ∧
      (facing [.edge 500] (recording 143 0)).readyO = false ∧ t.readyO = true) ∧
    ∃ t, Inv (facing [.cmd 0x0300] (completed (frame r1))) ∧
      step (facing [.cmd 0x0300] (completed (frame r1))) = .next t ∧
      (facing [.cmd 0x0300] (completed (frame r1))).readyO = true ∧ t.readyO = false ∧
      decodeEvent (.cmd 0x0300) = .op .reset :=
  ⟨⟨_, recording_inv _ (by decide) (by decide), rfl, rfl, rfl⟩,
    ⟨_, completed_inv _ _ (by decide), rfl, rfl, rfl, by decide⟩⟩

end Sys2Proof.Tests
end

section
/-! PROOFS. Which operation writes which field of the record (10_state.md R36, R37), and that no response shows
`lastEdgeTime`, `tbuf` or `sym` (10_state.md R38). -/

namespace Sys2Proof.Machine

/-! ### What an edge step leaves unchanged -/

@[simp] theorem Block.edge_bound (b : Block) (c : Config) (now : Nat) : (b.edge c now).bound = b.bound := by
  rcases b.edge_cases c now with ⟨-, h⟩ | ⟨-, -, h⟩ | ⟨-, -, -, -, h⟩ | ⟨-, -, -, -, h⟩ | ⟨-, -, -, -, h⟩ |
    ⟨-, -, -, -, h⟩ <;> simp [h]

/-- An edge moves the phase only from Seeking to Recording (40_capture.md R77). -/
theorem Block.edge_phase_ne {b : Block} {c : Config} {now : Nat} (hne : (b.edge c now).phase ≠ b.phase) :
    b.phase = .seeking ∧ (b.edge c now).phase = .recording := by
  rcases b.edge_cases c now with ⟨-, h⟩ | ⟨-, -, h⟩ | ⟨-, -, -, -, h⟩ | ⟨-, -, hseek, -, h⟩ | ⟨-, -, -, -, h⟩ |
    ⟨-, -, -, -, h⟩
  case inr.inr.inr.inl => exact ⟨hseek, by rw [h]⟩
  all_goals exact absurd (by simp [h]) hne

/-- An edge moves the running flag only from 1 to 0, at completion (40_capture.md R78). -/
theorem Block.edge_running_ne {b : Block} {c : Config} {now : Nat} (hne : (b.edge c now).running ≠ b.running) :
    b.running = true ∧ (b.edge c now).running = false := by
  rcases b.edge_cases c now with ⟨-, h⟩ | ⟨-, -, h⟩ | ⟨-, -, -, -, h⟩ | ⟨-, -, -, -, h⟩ | ⟨-, -, -, -, h⟩ |
    ⟨-, hrun, -, -, h⟩
  case inr.inr.inr.inr.inr => exact ⟨hrun, by simp [h]⟩
  all_goals exact absurd (by simp [h]) hne

/-- Settles O50, by the five cases of one instruction: an edge by what it leaves unchanged, START, STOP and RESET by
the record they put, a read by its empty effect on the record. -/
theorem writersOfEachField : Obligations.WritersOfEachField := by
  intro i s t ht
  rcases exec_cases s i with ⟨now, rfl, h⟩ | ⟨rfl, h⟩ | ⟨rfl, h⟩ | ⟨rfl, h⟩ | ⟨hread, r, h, -⟩ <;>
    obtain rfl := Host.Outcome.next.inj (h.symm.trans ht)
  case inl =>
    exact ⟨rfl, rfl, fun hne => absurd (Block.edge_bound ..) hne, fun _ => ⟨now, rfl⟩,
      fun hne => .inl ⟨⟨now, rfl⟩, Block.edge_phase_ne hne⟩, fun hne => .inl ⟨⟨now, rfl⟩, Block.edge_running_ne hne⟩,
      fun _ => .inl ⟨now, rfl⟩, nofun, nofun⟩
  case inr.inr.inr.inr =>
    have hstop : i ≠ .stop := by
      rintro rfl
      exact Bool.noConfusion hread
    simp [hstop]
  all_goals simp [isRead]

/-! ### What a response can show -/

/-- The two records agree on every field but `lastEdgeTime`, `tbuf` and `sym`. -/
structure Block.SameReadable (b b' : Block) : Prop where
  bound : b'.bound = b.bound
  running : b'.running = b.running
  phase : b'.phase = b.phase
  cursor : b'.cursor = b.cursor
  scanTiming : b'.scanTiming = b.scanTiming
  raw : b'.raw = b.raw
  msg : b'.msg = b.msg
  invCount : b'.invCount = b.invCount

theorem Block.sameReadable_hidden (b : Block) (last : Nat) (tbuf : Vector Nat 144) (sym : Vector Symbol 72) :
    b.SameReadable { b with lastEdgeTime := last, tbuf := tbuf, sym := sym } :=
  ⟨rfl, rfl, rfl, rfl, rfl, rfl, rfl, rfl⟩

theorem Block.SameReadable.statusWord {b b' : Block} (h : b.SameReadable b') : b'.statusWord = b.statusWord := by
  simp only [Block.statusWord, h.cursor, h.bound, h.phase, h.running]

theorem Block.SameReadable.available {b b' : Block} (h : b.SameReadable b') : b'.available = b.available := by
  simp only [Block.available, h.running, h.msg]

/-- Both outcomes answer, `o` from `s` and `o'` from `s'`, with one and the same response. -/
def SameResponse (s s' : State) (o o' : Host.Outcome State Fault Refusal) : Prop :=
  ∃ (t t' : State) (r : Response), o = .next t ∧ o' = .next t' ∧
    t.responses = s.responses ++ [r] ∧ t'.responses = s'.responses ++ [r]

variable {s s' : State}

theorem respond_sameResponse (st : Status) (v : Data) : SameResponse s s' (respond st v s) (respond st v s') :=
  ⟨_, _, ⟨st, v⟩, rfl, rfl, rfl, rfl⟩

theorem readyGate_sameResponse (h : s.block.SameReadable s'.block) (v : Data) :
    SameResponse s s' (readyGate v s) (readyGate v s') := by
  rw [readyGate_eq, readyGate_eq, h.running]
  exact ⟨_, _, _, rfl, rfl, rfl, rfl⟩

theorem fieldRespond_sameResponse (h : s.block.SameReadable s'.block) (v : Data) :
    SameResponse s s' (fieldRespond v s) (fieldRespond v s') := by
  rw [fieldRespond_eq, fieldRespond_eq, h.running, h.msg]
  exact ⟨_, _, _, rfl, rfl, rfl, rfl⟩

/-- Each command's response is its gate's, over a value of the fields the two records share. -/
theorem exec_sameResponse {i : Instr} (hi : ∀ now, i ≠ .edge now) (h : s.block.SameReadable s'.block) :
    SameResponse s s' (exec i s) (exec i s') := by
  cases i with
  | edge now => exact absurd rfl (hi now)
  | start | stop | reset => exact ⟨_, _, ⟨.ok, 0⟩, rfl, rfl, rfl, rfl⟩
  | isReady | getStatus | getScan | available =>
    simp only [exec, execIsReady, execGetStatus, execGetScan, execAvailable, h.running, h.statusWord, h.scanTiming,
      h.available]
    exact respond_sameResponse ..
  | getInvcnt | verify =>
    simp only [exec, execGetInvcnt, execVerify, h.invCount, h.msg]
    exact readyGate_sameResponse h _
  | getRaw idx | getMsg idx | getNib idx =>
    simp only [exec, execGetRaw, execGetMsg, execGetNib, h.raw, h.msg]
    split
    · exact respond_sameResponse ..
    · exact readyGate_sameResponse h _
  | temp | depth | devid | serid | lowbat | txint =>
    simp only [exec, execTemp, execDepth, execDevid, execSerid, execLowbat, execTxint, h.msg]
    exact fieldRespond_sameResponse h _

/-- Settles O51: the two records agree on every field that a response is computed from. -/
theorem hiddenStateReachesNoResponse : Obligations.HiddenStateReachesNoResponse := by
  intro i s s' hi h
  have hsame : s.block.SameReadable s'.block := by
    rw [h]
    exact Block.sameReadable_hidden ..
  exact exec_sameResponse hi hsame

end Sys2Proof.Machine
end

section
/-! PROOFS. How the message registers are addressed: nibble `p` of a message is half of byte `p / 2` (20_memory.md R43),
and bit `7 - j` of a packed byte `b` is symbol `8b + j` (20_memory.md R42). -/

namespace Sys2Proof.Machine

/-! ### Nibbles of a message -/

theorem nibble_toNat_of_even (m : Vector Byte 9) {p : Fin 18} (h : p.val % 2 = 0) :
    (nibble m p).toNat = m[p.val / 2].toNat / 16 := by
  have hbyte : m[p.val / 2].toNat < 256 := m[p.val / 2].isLt
  rw [nibble, if_pos h, BitVec.extractLsb'_toNat, Nat.shiftRight_eq_div_pow]
  omega

theorem nibble_toNat_of_odd (m : Vector Byte 9) {p : Fin 18} (h : p.val % 2 = 1) :
    (nibble m p).toNat = m[p.val / 2].toNat % 16 := by
  rw [nibble, if_neg (by omega), BitVec.extractLsb'_toNat, Nat.shiftRight_zero]

/-- Settles O30: byte `p / 2` is one of the nine, and the parity of `p` picks its half. -/
theorem nibbleAddressing : Obligations.NibbleAddressing := fun m p =>
  ⟨m[p.val / 2], Vector.getElem?_eq_getElem (by omega), (nibble m p).isLt, nibble_toNat_of_even m,
    nibble_toNat_of_odd m⟩

/-! ### Bits of a packed string -/

/-- The bit of a symbol is set for S1 alone: S0 and SINV both pack as 0 (00_scope.md R14). -/
theorem Symbol.bitval_getLsbD_zero (y : Symbol) : y.bitval.getLsbD 0 = decide (y = .s1) := by
  cases y <;> rfl

/-- Of eight bits joined in order, the first is the most significant. -/
theorem getLsbD_join_eight_bits (v : Fin 8 → BitVec 1) (j : Fin 8) :
    (v 0 ++ v 1 ++ v 2 ++ v 3 ++ v 4 ++ v 5 ++ v 6 ++ v 7).getLsbD (7 - j.val) = (v j).getLsbD 0 := by
  -- The index is split before it is a numeral: on a numeral `simp` folds the width to 8 and finds no append.
  simp only [BitVec.getLsbD_append]
  fin_cases j <;> rfl

theorem packByte_getLsbD (x : Vector Symbol 72) (b : Fin 9) (j : Fin 8) :
    (packByte x b).getLsbD (7 - j.val) = x[8 * b.val + j.val].bitval.getLsbD 0 :=
  getLsbD_join_eight_bits (fun i => x[8 * b.val + i.val].bitval) j

@[simp] theorem packBytes_getElem (x : Vector Symbol 72) (b : Nat) (h : b < 9) :
    (packBytes x)[b] = packByte x ⟨b, h⟩ := Vector.getElem_ofFn h

/-- Settles O40: bit `7 - j` of a packed byte is the bit of symbol `8b + j`, which is set for S1 alone. -/
theorem packingIsMsbFirst : Obligations.PackingIsMsbFirst := fun x b j =>
  calc (packBytes x)[b].getLsbD (7 - j.val)
    _ = (packByte x b).getLsbD (7 - j.val) := by rw [Fin.getElem_fin, packBytes_getElem]
    _ = x[8 * b.val + j.val].bitval.getLsbD 0 := packByte_getLsbD x b j
    _ = decide (x[8 * b.val + j.val] = .s1) := Symbol.bitval_getLsbD_zero _

end Sys2Proof.Machine
end

section
/-! PROOFS. Which command words are illegal and how one is answered (30_encoding.md R61, R64; 60_exceptions.md R162),
and the one response of every command word (30_encoding.md R59). -/

namespace Sys2Proof

/-! ### The operand class of an operation code -/

/-- The class column of the opcode map (30_encoding.md R60, R61); `none` for a reserved operation code. -/
def operandClass (opc : BitVec 8) : Option OperandClass := (opcodeRow opc).map Prod.fst

/-- Each class has its list of operation codes, and the reserved ones are all the others. -/
theorem operandClass_iff (opc : BitVec 8) :
    (operandClass opc = none ↔ opc.toNat ∉ [0x01, 0x02, 0x03, 0x10, 0x11, 0x12, 0x13, 0x20, 0x21, 0x22, 0x28, 0x29,
      0x30, 0x31, 0x32, 0x33, 0x34, 0x35]) ∧
    (operandClass opc = some .N ↔ opc.toNat ∈ [0x01, 0x02, 0x03, 0x10, 0x11, 0x12, 0x13, 0x28, 0x29, 0x30, 0x31,
      0x32, 0x33, 0x34, 0x35]) ∧
    (operandClass opc = some .B ↔ opc.toNat ∈ [0x20, 0x21]) ∧
    (operandClass opc = some .P ↔ opc.toNat = 0x22) := by
  rcases opcodeRow_cases opc with ⟨hrow, hopc⟩ | ⟨rfl, -⟩ | ⟨rfl, -⟩ | ⟨rfl, -⟩ | ⟨rfl, -⟩ | ⟨rfl, -⟩ | ⟨rfl, -⟩ |
    ⟨rfl, -⟩ | ⟨rfl, -⟩ | ⟨rfl, -⟩ | ⟨rfl, -⟩ | ⟨rfl, -⟩ | ⟨rfl, -⟩ | ⟨rfl, -⟩ | ⟨rfl, -⟩ | ⟨rfl, -⟩ | ⟨rfl, -⟩ |
    ⟨rfl, -⟩ | ⟨rfl, -⟩
  · simp_all [operandClass]
  all_goals decide

/-! ### Illegal words -/

/-- Of the values below `n`, those outside a list of different ones are `n` less the length of the list. -/
theorem length_filter_range_notMem {n : Nat} {l : List Nat} (hl : l.Nodup) (hlt : ∀ x ∈ l, x < n) :
    ((List.range n).filter fun x => x ∉ l).length = n - l.length := by
  have hsub : l.toFinset ⊆ Finset.range n := fun x hx => Finset.mem_range.mpr (hlt x (List.mem_toFinset.mp hx))
  calc ((List.range n).filter fun x => x ∉ l).length
    _ = ((Finset.range n).filter fun x => x ∉ l).card := rfl
    _ = (Finset.range n \ l.toFinset).card := by simp [Finset.sdiff_eq_filter]
    _ = n - l.length := by
      rw [Finset.card_sdiff_of_subset hsub, Finset.card_range, List.toFinset_card_of_nodup hl]

/-- A word is illegal when its operation code is reserved or its `idx` breaks the condition of its class. -/
theorem decodeCmd_illegal_iff (w : CmdWord) : (∃ why, decodeCmd w = .illegal why) ↔
    operandClass (opcOf w) = none ∨ (operandClass (opcOf w) = some .N ∧ idxOf w ≠ 0) ∨
    (operandClass (opcOf w) = some .B ∧ 8 < idxOf w) ∨ (operandClass (opcOf w) = some .P ∧ 17 < idxOf w) := by
  unfold decodeCmd operandClass
  rcases opcodeRow (opcOf w) with _ | ⟨_ | _ | _, mk⟩
  · simp
  all_goals
    simp only [OperandClass.admits, decide_eq_true_eq]
    split <;> simp <;> omega

/-! ### No command word is an edge -/

/-- No row of the opcode map spells an edge: only the edge port carries one (30_encoding.md R57, R60). -/
theorem opcodeRow_ne_edge {opc : BitVec 8} {cls : OperandClass} {mk : Nat → Instr}
    (h : opcodeRow opc = some (cls, mk)) (idx now : Nat) : mk idx ≠ .edge now := by
  rcases opcodeRow_cases opc with ⟨hrow, -⟩ | ⟨-, hrow⟩ | ⟨-, hrow⟩ | ⟨-, hrow⟩ | ⟨-, hrow⟩ | ⟨-, hrow⟩ | ⟨-, hrow⟩ |
    ⟨-, hrow⟩ | ⟨-, hrow⟩ | ⟨-, hrow⟩ | ⟨-, hrow⟩ | ⟨-, hrow⟩ | ⟨-, hrow⟩ | ⟨-, hrow⟩ | ⟨-, hrow⟩ | ⟨-, hrow⟩ |
    ⟨-, hrow⟩ | ⟨-, hrow⟩ | ⟨-, hrow⟩
  · cases hrow.symm.trans h
  all_goals
    cases hrow.symm.trans h
    nofun

theorem decodeCmd_ne_edge (w : CmdWord) (now : Nat) : decodeCmd w ≠ .op (.edge now) := by
  unfold decodeCmd
  split
  · nofun
  · next hrow =>
    split
    · exact fun h => opcodeRow_ne_edge hrow _ now (Decoded.op.inj h)
    · nofun

end Sys2Proof

namespace Sys2Proof.Machine

/-- Settles O5: the operand class of the operation code decides what the operand may be, and the step on an illegal
word answers it. -/
theorem illegalWordsAndTheirAnswer : Obligations.IllegalWordsAndTheirAnswer := by
  refine ⟨fun w => ?_, length_filter_range_notMem (by decide) (by decide),
    fun s w why rest he hw => step_of_illegal s he hw⟩
  obtain ⟨hnone, hN, hB, hP⟩ := operandClass_iff (opcOf w)
  rw [decodeCmd_illegal_iff, hnone, hN, hB, hP]

/-! ### The response of a command word -/

/-- Every operation but an edge returns one response, whose data is 0 unless its status is OK, and consumes no
event. -/
theorem exec_one_response {i : Instr} (hi : ∀ now, i ≠ .edge now) (s : State) :
    ∃ (t : State) (r : Response), exec i s = .next t ∧ t.events = s.events ∧ t.responses = s.responses ++ [r] ∧
      (r.status ≠ .ok → r.data = 0) := by
  rcases exec_cases s i with ⟨now, rfl, -⟩ | ⟨-, h⟩ | ⟨-, h⟩ | ⟨-, h⟩ | ⟨-, r, h, hdata⟩
  · exact absurd rfl (hi now)
  · exact ⟨_, ⟨.ok, 0⟩, h, rfl, rfl, fun _ => rfl⟩
  · exact ⟨_, ⟨.ok, 0⟩, h, rfl, rfl, fun _ => rfl⟩
  · exact ⟨_, ⟨.ok, 0⟩, h, rfl, rfl, fun _ => rfl⟩
  · exact ⟨_, r, h, rfl, rfl, hdata⟩

/-- Settles O9: a command word is answered ILLEGAL with data 0 or runs an operation that is no edge, and an edge event
runs the one operation without a response. -/
theorem responseFormat : Obligations.ResponseFormat := by
  refine ⟨fun d => ⟨rfl, rfl, rfl, rfl⟩, fun s w rest he => ?_, fun s now rest he => ?_⟩
  · cases hw : decodeCmd w with
    | op i =>
      have hi : ∀ now, i ≠ .edge now := fun now h => decodeCmd_ne_edge w now (h ▸ hw)
      rw [step_of_op s he hw]
      exact exec_one_response hi _
    | illegal why => exact ⟨_, _, step_of_illegal s he hw, rfl, rfl, fun _ => rfl⟩
  · exact ⟨_, (step_of_op s he rfl).trans (exec_edge _ now), rfl, rfl⟩

end Sys2Proof.Machine
end

section
/-! PROOFS. The lifecycle commands and the capture-status reads: the word that spells each and what it answers
(40_capture.md R79 to R85). -/

namespace Sys2Proof.Machine

variable (b : Block) (s : State)

/-! ### Class N words -/

/-- A row of class N spells its operation with `idx` zero, and no other word of that row is legal. -/
theorem spelledByClassN_of_row {opc : BitVec 8} {i : Instr} (hrow : opcodeRow opc = some (.N, fun _ => i)) :
    SpelledByClassN opc i := by
  refine ⟨?_, fun idx hidx => ?_⟩
  · simp [decodeCmd_append, hrow, OperandClass.admits]
  · have hne : idx.toNat ≠ 0 := fun h => hidx (BitVec.eq_of_toNat_eq h)
    simp [decodeCmd_append, hrow, OperandClass.admits, OperandClass.reject, hne]

/-! ### What the reads answer -/

theorem exec_isReady : exec .isReady s = .next (s.emit ⟨.ok, boolData (!s.block.running)⟩) := rfl

theorem exec_getStatus : exec .getStatus s = .next (s.emit ⟨.ok, s.block.statusWord⟩) := rfl

theorem exec_getScan : exec .getScan s = .next (s.emit ⟨.ok, zext32 s.block.scanTiming⟩) := rfl

/-- GET_MSG with an index in range answers by the ready gate (42_assembler.md R113). -/
theorem exec_getMsg_of_le {idx : Nat} (h : idx ≤ 8) :
    exec (.getMsg idx) s = .next (s.emit (if s.block.running then ⟨.notReady, 0⟩
      else ⟨.ok, (s.block.msg[idx]'(by omega)).setWidth 32⟩)) := by
  rw [show exec (.getMsg idx) s = execGetMsg idx s from rfl, execGetMsg, byteOperand_of_le _ h,
    ← BitVec.ofNat_toNat]
  exact readyGate_eq ..

/-! ### START, RESET and STOP -/

/-- Settles O11: START clears the capture of the bound record, which for a bound block is the record itself. -/
theorem startBindsAndClears : Obligations.StartBindsAndClears := by
  refine ⟨spelledByClassN_of_row rfl, exec_start, fun _ => rfl, fun s hbound => ?_⟩
  have hself : { s.block with bound := true } = s.block := by rw [← hbound]
  rw [exec_start, exec_reset, hself]

/-- Settles O12: the cleared record runs, so IS_READY reads 0 of it and the ready gate refuses its message. -/
theorem resetClearsTheCapture : Obligations.ResetClearsTheCapture :=
  ⟨spelledByClassN_of_row rfl, fun s => ⟨_, exec_reset s, rfl, exec_isReady _, exec_getMsg_of_le _ (by decide)⟩⟩

/-- Settles O13: STOP leaves `running` and `msg` as they are, and IS_READY and GET_MSG read nothing else. -/
theorem stopUnbindsOnly : Obligations.StopUnbindsOnly := by
  refine ⟨spelledByClassN_of_row rfl, exec_stop, fun s t hrun ht => ?_, fun s t b hrun ht => ?_⟩ <;>
    obtain rfl := Host.Outcome.next.inj ((exec_stop s).symm.trans ht)
  · rw [exec_isReady]
    simp [hrun, boolData, State.emit]
  · rw [exec_getMsg_of_le _ (by omega)]
    simp [hrun, State.emit]

/-! ### IS_READY, GET_SCAN and GET_STATUS -/

/-- Settles O14: the data of IS_READY and the output level are both the negation of `running`. -/
theorem isReadyReportsNotRunning : Obligations.IsReadyReportsNotRunning := by
  refine ⟨spelledByClassN_of_row rfl, fun s => ?_, fun s => by simp [State.readyO]⟩
  rw [exec_isReady]
  cases hrun : s.block.running <;> simp [boolData, State.emit]

/-- Settles O16: the data word holds the low 32 bits of `scanTiming`, which the invariant keeps 0 in Seeking. -/
theorem getScanReturnsTheScanningTiming : Obligations.GetScanReturnsTheScanningTiming := by
  refine ⟨spelledByClassN_of_row rfl, fun s => ⟨_, exec_getScan s, BitVec.toNat_ofNat .., fun hinv hseek => ?_⟩⟩
  obtain ⟨-, -, hscan, -⟩ := hinv.block.seeking hseek
  rw [hscan]
  rfl

theorem Block.statusWord_getLsbD_zero : b.statusWord.getLsbD 0 = b.running := by
  rw [Block.statusWord, BitVec.getLsbD_append]
  simp

theorem Block.statusWord_getLsbD_one : b.statusWord.getLsbD 1 = decide (b.phase = .recording) := by
  rw [Block.statusWord, BitVec.getLsbD_append, BitVec.getLsbD_append]
  cases b.phase <;> rfl

theorem Block.statusWord_getLsbD_two : b.statusWord.getLsbD 2 = b.bound := by
  rw [Block.statusWord, BitVec.getLsbD_append, BitVec.getLsbD_append, BitVec.getLsbD_append]
  simp

/-- Above its three flags the status word is the cursor between its zeros. -/
theorem Block.statusWord_extractLsb' {start : Nat} (len : Nat) (h : 3 ≤ start) :
    b.statusWord.extractLsb' start len = (0#16 ++ BitVec.ofNat 8 b.cursor ++ 0#5).extractLsb' (start - 3) len := by
  rw [Block.statusWord, BitVec.extractLsb'_append_eq_of_le (by omega), BitVec.extractLsb'_append_eq_of_le (by omega),
    BitVec.extractLsb'_append_eq_of_le (by omega)]
  rfl

theorem Block.statusWord_low_zeros : b.statusWord.extractLsb' 3 5 = 0 := by
  rw [b.statusWord_extractLsb' 5 (by decide)]
  exact BitVec.extractLsb'_append_eq_right

theorem Block.statusWord_cursor : b.statusWord.extractLsb' 8 8 = BitVec.ofNat 8 b.cursor := by
  rw [b.statusWord_extractLsb' 8 (by decide), BitVec.extractLsb'_append_eq_of_le (by decide)]
  exact BitVec.extractLsb'_append_eq_right

theorem Block.statusWord_high_zeros : b.statusWord.extractLsb' 16 16 = 0 := by
  rw [b.statusWord_extractLsb' 16 (by decide), BitVec.extractLsb'_append_eq_of_le (by decide)]
  exact BitVec.extractLsb'_append_eq_left

/-- A cursor in its range fills its byte of the status word without wrapping, so the byte is 0x90 at completion
alone. -/
theorem Block.Inv.statusWord_cursor_iff {b : Block} {c : Config} (hinv : b.Inv c) :
    b.statusWord.extractLsb' 8 8 = 0x90 ↔ b.running = false := by
  have hle : b.cursor ≤ 144 := hinv.cursor_le
  rw [b.statusWord_cursor, hinv.complete_iff, ← BitVec.toNat_inj, BitVec.toNat_ofNat,
    Nat.mod_eq_of_lt (show b.cursor < 2 ^ 8 by omega)]
  rfl

/-- Settles O15, field by field of the status word. -/
theorem getStatusLayout : Obligations.GetStatusLayout :=
  ⟨spelledByClassN_of_row rfl, fun s => ⟨s.block.statusWord, exec_getStatus s, s.block.statusWord_getLsbD_zero,
    s.block.statusWord_getLsbD_one, s.block.statusWord_getLsbD_two, s.block.statusWord_low_zeros,
    s.block.statusWord_cursor, s.block.statusWord_high_zeros, fun hinv => hinv.block.statusWord_cursor_iff⟩⟩

end Sys2Proof.Machine
end

section
/-! PROOFS. The edge step by the state it finds: unbound, complete, Seeking or Recording (40_capture.md R75 to R78). -/

namespace Sys2Proof.Machine

variable {s : State} {now i : Nat}

/-! ### The interval -/

/-- The interval is the one natural that is the difference in ℤ reduced modulo `2 ^ TIME_W`. -/
theorem eq_interval (hi : (i : Int) = ((now : Int) - s.block.lastEdgeTime) % 2 ^ s.cfg.timeW) :
    i = interval s.cfg now s.block.lastEdgeTime := by
  rw [← interval_eq] at hi
  exact_mod_cast hi

theorem interval_self (c : Config) : interval c now now = 0 := by simp [interval]

/-- A timestamp that has wrapped below the last one is `2 ^ TIME_W` later than it reads. -/
theorem interval_of_lt {c : Config} {last : Nat} (hlast : last < 2 ^ c.timeW) (h : now < last) :
    interval c now last = now + 2 ^ c.timeW - last := by
  unfold interval
  generalize 2 ^ c.timeW = m at hlast ⊢
  rw [← Int.add_emod_right, Int.emod_eq_of_lt] <;> omega

/-! ### The four cases of an edge -/

section Cases

variable (hnow : now < 2 ^ s.cfg.timeW)
include hnow

theorem exec_edge_of_lt : exec (.edge now) s = .next (s.putBlock (s.block.edge s.cfg now)) := by
  rw [exec_edge, portTime_of_lt _ hnow]

theorem exec_edge_unbound (hb : s.block.bound = false) : exec (.edge now) s = .next s := by
  rw [exec_edge_of_lt hnow]
  simp [Block.edge, hb]

variable (hb : s.block.bound = true)
include hb

theorem exec_edge_not_running (hr : s.block.running = false) :
    exec (.edge now) s = .next (s.putBlock { s.block with lastEdgeTime := now }) := by
  rw [exec_edge_of_lt hnow]
  simp [Block.edge, hb, hr]

variable (hi : (i : Int) = ((now : Int) - s.block.lastEdgeTime) % 2 ^ s.cfg.timeW) (hr : s.block.running = true)
include hi hr

theorem exec_edge_seeking (hp : s.block.phase = .seeking) :
    exec (.edge now) s = .next (s.putBlock (Block.seek s.cfg i { s.block with lastEdgeTime := now })) := by
  rw [exec_edge_of_lt hnow, eq_interval hi]
  simp [Block.edge, hb, hr, hp]

theorem exec_edge_recording (hp : s.block.phase = .recording) :
    exec (.edge now) s = .next (s.putBlock (Block.record s.cfg i { s.block with lastEdgeTime := now })) := by
  rw [exec_edge_of_lt hnow, eq_interval hi]
  simp [Block.edge, hb, hr, hp]

end Cases

/-- Settles O32, by the four cases of an edge and the two corners of the interval. -/
theorem edgeStep : Obligations.EdgeStep := by
  intro s now i hnow hi
  refine ⟨exec_edge_unbound hnow, exec_edge_not_running hnow, fun hb hr => exec_edge_seeking hnow hb hi hr,
    fun hb hr => exec_edge_recording hnow hb hi hr, fun hlast hlt => ?_, fun hsame => ?_⟩
  · rw [eq_interval hi, interval_of_lt hlast hlt]
  · rw [eq_interval hi, ← hsame, interval_self]

/-! ### SEEK -/

theorem Block.seek_of_inScan {c : Config} (h : inScan c i = true) (b : Block) :
    b.seek c i = { b with phase := .recording, scanTiming := i, cursor := 0 } := if_pos h

theorem Block.seek_of_not_inScan {c : Config} (h : ¬ inScan c i = true) (b : Block) : b.seek c i = b := if_neg h

/-- Settles O33: an edge in Seeking runs SEEK, which records exactly in the scan window. -/
theorem scanGapStartsRecording : Obligations.ScanGapStartsRecording := by
  refine ⟨fun s now i hnow hi hb hr hp => ?_, fun c i => ?_⟩
  · rw [← inScan_iff, exec_edge_seeking hnow hb hi hr hp]
    refine ⟨fun hin => ?_, fun hout => ?_⟩
    · rw [Block.seek_of_inScan hin]
      rfl
    · rw [Block.seek_of_not_inScan hout]
      rfl
  · rw [inScan_iff, abs_le]
    omega

/-! ### RECORD -/

/-- Every cursor of an unfinished capture is in bounds, so RECORD's store is a plain write of the entry. -/
theorem Block.store_of_lt {b : Block} (h : b.cursor < 144) (i : Nat) :
    b.store i = { b with tbuf := b.tbuf.set b.cursor i, cursor := b.cursor + 1 } := by
  have hset : b.tbuf.setIfInBounds b.cursor i = b.tbuf.set b.cursor i :=
    Vector.toArray_inj.mp (by simp [Array.setIfInBounds_def, h])
  rw [Block.store, hset]

theorem Block.record_of_lt {b : Block} (h : b.cursor < 143) (c : Config) (i : Nat) :
    b.record c i = { b with tbuf := b.tbuf.set b.cursor i (by omega), cursor := b.cursor + 1 } := by
  simp [Block.record, Block.store_of_lt (show b.cursor < 144 by omega), capacity,
    show ¬ 143 < b.cursor + 1 by omega]

/-- Completion loads the four decode registers and nothing else (42_assembler.md R110). -/
theorem Block.complete_eq (c : Config) (b : Block) :
    b.complete c = { b with
      sym := classifyAll c b.tbuf, raw := packBytes (classifyAll c b.tbuf),
      msg := packBytes (reverseGroups (classifyAll c b.tbuf)), invCount := countInvalid (classifyAll c b.tbuf) } := by
  simp only [Block.complete, decodeBuffer]

/-- The entry written last is part of what completion decodes. -/
theorem Block.record_of_last {b : Block} (h : b.cursor = 143) (c : Config) (i : Nat) :
    b.record c i =
      Block.complete c { b with tbuf := b.tbuf.set 143 i, cursor := 144, running := false } := by
  simp [Block.record, Block.store_of_lt (show b.cursor < 144 by omega), capacity, h]

/-- Settles O34: RECORD is the store alone below entry 143, and the store followed by completion at it. -/
theorem recordStoresAndCompletes : Obligations.RecordStoresAndCompletes := by
  intro s now i hnow hi hb hr hp
  rw [exec_edge_recording hnow hb hi hr hp]
  refine ⟨fun hlt => ?_, fun hlast buf hbuf => ?_⟩
  · rw [Block.record_of_lt (b := { s.block with lastEdgeTime := now }) hlt]
    rfl
  · rw [Block.record_of_last (b := { s.block with lastEdgeTime := now }) hlast, Block.complete_eq, hbuf]
    rfl

end Sys2Proof.Machine
end

section
/-! PROOFS. The tolerance windows of the classifier as two-sided bounds in ℤ (41_classifier.md R95, R96). -/

namespace Sys2Proof.Machine

variable (c : Config) (t : Nat)

theorem isShort_iff_bounds :
    isShort c t = true ↔ (c.period : Int) - 2 * c.delta ≤ t ∧ (t : Int) ≤ c.period + 2 * c.delta := by
  rw [isShort_iff, abs_sub_comm, Set.mem_Icc_iff_abs_le, Set.mem_Icc]

theorem isLong_iff_bounds :
    isLong c t = true ↔ 2 * (c.period : Int) - 4 * c.delta ≤ t ∧ (t : Int) ≤ 2 * c.period + 4 * c.delta := by
  rw [isLong_iff, abs_sub_comm, Set.mem_Icc_iff_abs_le, Set.mem_Icc]

/-- Where the lower bound of the short window is not positive, the window reaches the interval 0: an unsigned
subtraction would wrap there. -/
theorem isShort_zero (h : c.period ≤ 2 * c.delta) : isShort c 0 = true := by
  rw [isShort_iff_bounds]
  omega

/-- Settles O36: both windows, as distances and as two-sided bounds in ℤ. -/
theorem classifierWindows : Obligations.ClassifierWindows := fun c t =>
  ⟨isShort_iff c t, isShort_iff_bounds c t, isLong_iff c t, isLong_iff_bounds c t, isShort_zero c⟩

end Sys2Proof.Machine
end

section
/-! PROOFS. The frame assembler: pairs of buffer entries become symbols (42_assembler.md R105), the Invalid symbols are
counted apart from the bits (42_assembler.md R111), and GET_INVCNT reads the count (42_assembler.md R114). -/

namespace Sys2Proof.Machine

/-! ### Symbols of the buffer and of a reversed string -/

@[simp] theorem classifyAll_getElem (c : Config) (buf : Vector Nat 144) (k : Nat) (h : k < 72) :
    (classifyAll c buf)[k] = classify c buf[2 * k] buf[2 * k + 1] := Vector.getElem_ofFn h

@[simp] theorem reverseGroups_getElem (x : Vector Symbol 72) (k : Nat) (h : k < 72) :
    (reverseGroups x)[k] = x[4 * (k / 4) + 3 - k % 4] := Vector.getElem_ofFn h

/-- Settles O39: the symbol at place `k` of `classifyAll`. -/
theorem pairsBecomeSymbols : Obligations.PairsBecomeSymbols := fun c buf k => classifyAll_getElem c buf k k.isLt

/-! ### The Invalid-symbol count -/

/-- The entries of a vector that satisfy `p` are as many as the places that hold one. -/
theorem countP_eq_card_filter_univ {α : Type} {n : Nat} (p : α → Bool) (x : Vector α n) :
    x.countP p = (Finset.univ.filter fun k : Fin n => p x[k] = true).card := by
  have hx : x.toList = (List.finRange n).map fun k => x[k] := by
    rw [← List.ofFn_eq_map]
    exact List.ext_getElem (by simp) (by simp)
  calc x.countP p
    _ = x.toList.countP p := Vector.countP_toList.symm
    _ = ((List.finRange n).filter fun k => p x[k]).length := by
      rw [hx, List.countP_map, List.countP_eq_length_filter]
      rfl
    _ = ((List.finRange n).filter fun k => decide (p x[k] = true)).length := by simp only [Bool.decide_eq_true]
    _ = (Finset.univ.filter fun k : Fin n => p x[k] = true).card := rfl

theorem countInvalid_eq_card (x : Vector Symbol 72) :
    countInvalid x = (Finset.univ.filter fun k : Fin 72 => x[k] = .sinv).card := by
  rw [countInvalid, countP_eq_card_filter_univ]
  simp only [beq_iff_eq]

theorem countInvalid_le (x : Vector Symbol 72) : countInvalid x ≤ 72 := Vector.countP_le_size

/-! ### Strings with the same bits -/

section SameBits

variable {x y : Vector Symbol 72} (h : ∀ k : Fin 72, x[k].bitval = y[k].bitval)
include h

theorem packBytes_eq_of_bitval_eq : packBytes x = packBytes y := by
  have hbit (k : Nat) (hk : k < 72) : x[k].bitval = y[k].bitval := h ⟨k, hk⟩
  refine Vector.ext fun b hb => ?_
  simp only [packBytes_getElem, packByte, hbit]

/-- The nibble transform moves symbols without looking at them. -/
theorem bitval_reverseGroups_eq (k : Fin 72) : (reverseGroups x)[k].bitval = (reverseGroups y)[k].bitval := by
  simp only [Fin.getElem_fin, reverseGroups_getElem]
  exact h ⟨4 * (k.val / 4) + 3 - k.val % 4, by omega⟩

end SameBits

/-- Settles O43: the count is a number of places, and packing sees the bits alone, before the transform and after. -/
theorem invalidCountCountsInvalidSymbols : Obligations.InvalidCountCountsInvalidSymbols :=
  ⟨fun x => ⟨countInvalid_eq_card x, countInvalid_le x⟩, fun c b => b.complete_invCount c,
    fun _ _ h => ⟨packBytes_eq_of_bitval_eq h, packBytes_eq_of_bitval_eq (bitval_reverseGroups_eq h)⟩⟩

/-! ### GET_INVCNT -/

theorem exec_getInvcnt (s : State) : exec .getInvcnt s =
    .next (s.emit (if s.block.running then ⟨.notReady, 0⟩ else ⟨.ok, zext32 s.block.invCount⟩)) :=
  readyGate_eq ..

/-- A value that fits the data word is read back as it is. -/
theorem zext32_toNat_of_lt {n : Nat} (h : n < 2 ^ 32) : (zext32 n).toNat = n := by
  rw [zext32, BitVec.toNat_ofNat, Nat.mod_eq_of_lt h]

/-- Settles O19: the ready gate over the count, which fits the data word. -/
theorem getInvcntReadsTheCount : Obligations.GetInvcntReadsTheCount := by
  refine ⟨spelledByClassN_of_row rfl, fun s hrun => ?_, fun s hrun => ⟨zext32 s.block.invCount, ?_, fun hle => ?_⟩⟩
  · rw [exec_getInvcnt, if_pos hrun]
    rfl
  · rw [exec_getInvcnt, if_neg (by simp [hrun])]
    rfl
  · exact zext32_toNat_of_lt (by omega)

end Sys2Proof.Machine
end

section
/-! PROOFS. The integrity verdict: the checksum as one exclusive OR of eight bytes (43_integrity.md R125, R126), and the
two commands that report it, VERIFY (R127) and AVAILABLE (R128, R129). -/

namespace Sys2Proof.Machine

/-! ### The fold and the verdict -/

/-- The bytes under the fold, in order: byte 8 is not among them. -/
theorem toList_take_eight (m : Vector Byte 9) :
    m.toList.take 8 = [m[0], m[1], m[2], m[3], m[4], m[5], m[6], m[7]] :=
  calc m.toList.take 8
    _ = List.ofFn fun k : Fin 8 => m[k.val] := List.ext_getElem (by simp) fun k _ _ => by
      rw [List.getElem_take, Vector.getElem_toList, List.getElem_ofFn]
    _ = [m[0], m[1], m[2], m[3], m[4], m[5], m[6], m[7]] := rfl

theorem checksum_eq_xor (m : Vector Byte 9) :
    checksum m = m[0] ^^^ m[1] ^^^ m[2] ^^^ m[3] ^^^ m[4] ^^^ m[5] ^^^ m[6] ^^^ m[7] := by
  simp [checksum, toList_take_eight]

theorem verifies_iff (m : Vector Byte 9) : verifies m = true ↔ checksum m = m[8] := beq_iff_eq

/-- Settles O21: the fold over the first eight bytes, written out, and its comparison with byte 8. -/
theorem checksumIsTheXorFold : Obligations.ChecksumIsTheXorFold := fun m =>
  ⟨checksum_eq_xor m, by rw [verifies_iff, checksum_eq_xor]⟩

/-! ### VERIFY and AVAILABLE -/

/-- VERIFY is gated by `running` alone, not by the verdict it reports. -/
theorem exec_verify (s : State) : exec .verify s =
    .next (s.emit (if s.block.running then ⟨.notReady, 0⟩ else ⟨.ok, boolData (verifies s.block.msg)⟩)) :=
  readyGate_eq ..

theorem exec_available (s : State) : exec .available s = .next (s.emit ⟨.ok, boolData s.block.available⟩) := rfl

theorem Block.available_iff (b : Block) : b.available = true ↔ b.running = false ∧ verifies b.msg = true := by
  rw [Block.available, Bool.and_eq_true, Bool.not_eq_true']

/-- Settles O22: the ready gate over the verdict, on each value of `running`. -/
theorem verifyReportsTheChecksum : Obligations.VerifyReportsTheChecksum := by
  refine ⟨spelledByClassN_of_row rfl, fun s hrun => ?_, fun s hrun => ?_⟩
  · rw [exec_verify, if_pos hrun]
    rfl
  · rw [exec_verify, if_neg (by simp [hrun])]
    rfl

/-- Settles O23: AVAILABLE passes no gate, and its data is the conjunction that defines availability. -/
theorem availableReportsAVerifiedCapture : Obligations.AvailableReportsAVerifiedCapture := by
  refine ⟨spelledByClassN_of_row rfl, Block.available_iff, fun s => ?_⟩
  simp only [exec_available, boolData, Block.available_iff]
  rfl

end Sys2Proof.Machine
end

section
/-! PROOFS. The typed fields of the message: the gate they share (44_fields.md R137), and the value each of TEMP (R138),
LOWBAT (R142) and TXINT (R143) answers with once the gate is open. -/

namespace Sys2Proof.Machine

variable (m : Vector Byte 9)

/-! ### The field gate -/

/-- What a class N command behind the field gate answers: the gate alone decides the status, and the data of an OK
response is the gated value, so it is as `P` says when the value is. -/
theorem fieldCommand_answers {opc : BitVec 8} {i : Instr} {v : State → Data} {P : State → Data → Prop}
    (hrow : opcodeRow opc = some (.N, fun _ => i)) (hexec : ∀ s, exec i s = fieldRespond (v s) s)
    (hvalue : ∀ s, P s (v s)) :
    SpelledByClassN opc i ∧
    (∀ s : State, s.block.running = true →
      exec i s = .next { s with responses := s.responses ++ [⟨.notReady, 0⟩] }) ∧
    (∀ s : State, s.block.running = false → verifies s.block.msg = false →
      exec i s = .next { s with responses := s.responses ++ [⟨.invalid, 0⟩] }) ∧
    ∀ s : State, s.block.running = false → verifies s.block.msg = true → ∃ d : Data,
      exec i s = .next { s with responses := s.responses ++ [⟨.ok, d⟩] } ∧ P s d := by
  refine ⟨spelledByClassN_of_row hrow, fun s hrun => ?_, fun s hrun hver => ?_,
    fun s hrun hver => ⟨v s, ?_, hvalue s⟩⟩
  · simp [hexec, fieldRespond_eq, hrun, State.emit]
  · simp [hexec, fieldRespond_eq, hrun, hver, State.emit]
  · simp [hexec, fieldRespond_eq, hrun, hver, State.emit]

/-! ### TEMP -/

/-- A value of 16-bit two's complement is read back as it is, sign included. -/
theorem sext32_toInt {v : Int} (hlo : -2 ^ 15 ≤ v) (hhi : v < 2 ^ 15) : (sext32 v).toInt = v := by
  rw [sext32, BitVec.toInt_signExtend_of_le (by decide), BitVec.toInt_ofInt]
  exact Int.bmod_eq_of_le (by omega) (by omega)

theorem sext32_temperature_of_valid (h : 400 ≤ rawTemp m ∧ rawTemp m ≤ 1000) :
    (sext32 (temperature m)).toInt = (rawTemp m : Int) - 400 := by
  rw [show temperature m = (rawTemp m : Int) - 400 from if_pos h]
  exact sext32_toInt (by omega) (by omega)

theorem sext32_temperature_of_not_valid (h : ¬ (400 ≤ rawTemp m ∧ rawTemp m ≤ 1000)) :
    (sext32 (temperature m)).toInt = -40 := by
  rw [show temperature m = -40 from if_neg h]
  exact sext32_toInt (by decide) (by decide)

/-- Settles O24: the field gate over the temperature, which a word of 16 bits holds in range and out of it. -/
theorem tempReturnsTheTemperature : Obligations.TempReturnsTheTemperature := by
  refine fieldCommand_answers rfl (fun _ => rfl) fun s t ht => ?_
  obtain rfl : t = rawTemp s.block.msg := ht
  exact ⟨sext32_temperature_of_valid _, sext32_temperature_of_not_valid _⟩

/-! ### LOWBAT -/

theorem zext32_lowBattery : zext32 (lowBattery m) = (nibble m 9).setWidth 32 := BitVec.ofNat_toNat ..

/-- Settles O28: the field gate over nibble 9, which is the low half of byte 4. -/
theorem lowbatReturnsTheRawNibble : Obligations.LowbatReturnsTheRawNibble :=
  fieldCommand_answers rfl (fun _ => rfl) fun s =>
    ⟨zext32_toNat_of_lt (by unfold lowBattery; omega), zext32_lowBattery s.block.msg⟩

/-! ### TXINT -/

/-- The tests of R143, which read bits of n11, as tests of its value. -/
theorem transmitInterval_eq : transmitInterval m =
    if (nibble m 11).toNat % 2 = 1 then 5
    else if 8 ≤ (nibble m 11).toNat then 30
    else if (nibble m 11).toNat = 0 then 180
    else 0 := by
  have hodd : (nibble m 11).getLsbD 0 = decide ((nibble m 11).toNat % 2 = 1) := Nat.testBit_zero _
  have hhigh : (nibble m 11).getLsbD 3 = decide (8 ≤ (nibble m 11).toNat) :=
    (BitVec.msb_eq_getLsbD_last _).symm.trans (BitVec.msb_eq_decide _)
  have hzero : nibble m 11 = 0 ↔ (nibble m 11).toNat = 0 := BitVec.toNat_inj.symm
  simp only [transmitInterval, hodd, hhigh, hzero, decide_eq_true_eq, txOdd, txBit3, txZero, txUnknown]

/-- Settles O29: the field gate over the transmit interval, for each class of values of n11, the low half of byte 5. -/
theorem txintReturnsTheInterval : Obligations.TxintReturnsTheInterval := by
  refine fieldCommand_answers rfl (fun _ => rfl) fun s n hn => ?_
  have hnib : (nibble s.block.msg 11).toNat = n := (nibble_toNat_of_odd s.block.msg rfl).trans hn.symm
  rw [transmitInterval_eq, hnib]
  refine ⟨fun h => ?odd, fun h => ?high, fun h => ?zero, fun h => ?unknown⟩
  case odd =>
    have hodd : n % 2 = 1 := (show ∀ k ∈ [1, 3, 5, 7, 9, 11, 13, 15], k % 2 = 1 by decide) n h
    rw [if_pos hodd]
    rfl
  case high =>
    obtain ⟨heven, hge⟩ := (show ∀ k ∈ [8, 10, 12, 14], ¬ k % 2 = 1 ∧ 8 ≤ k by decide) n h
    rw [if_neg heven, if_pos hge]
    rfl
  case zero =>
    subst h
    rfl
  case unknown =>
    obtain ⟨heven, hlt, hpos⟩ := (show ∀ k ∈ [2, 4, 6], ¬ k % 2 = 1 ∧ ¬ 8 ≤ k ∧ ¬ k = 0 by decide) n h
    rw [if_neg heven, if_neg hlt, if_neg hpos]
    rfl

end Sys2Proof.Machine
end

section
/-! PROOFS. The status of a response: which of ILLEGAL, NOT_READY, INVALID and OK a command word is answered with, and
that only an OK response goes with a write (60_exceptions.md R162 to R165). -/

namespace Sys2Proof

/-! ### The operand of a decoded word -/

/-- The condition of a row's class is the condition on the operand of the row's operation (30_encoding.md R61). -/
theorem opcodeRow_wf {opc : BitVec 8} {cls : OperandClass} {mk : Nat → Instr} {idx : Nat} (c : Config)
    (h : opcodeRow opc = some (cls, mk)) (hadmits : cls.admits idx = true) : (mk idx).wf c = true := by
  unfold opcodeRow at h
  split at h <;> cases h
  -- The rows of GET_RAW, GET_MSG and GET_NIB, the eighth to the tenth; every other row is of class N.
  case h_8 | h_9 | h_10 => exact hadmits
  all_goals rfl

theorem decodeCmd_wf {w : CmdWord} {i : Instr} (c : Config) (h : decodeCmd w = .op i) : i.wf c = true := by
  unfold decodeCmd at h
  split at h
  · cases h
  · next hrow =>
    split at h
    · next hadmits =>
      cases h
      exact opcodeRow_wf c hrow hadmits
    · cases h

end Sys2Proof

namespace Sys2Proof.Machine

/-! ### The response in its order of precedence -/

/-- The response of a legal command that answers `d` when no gate stops it, in the order of 60_exceptions.md R165. -/
def gatedResponse (i : Instr) (b : Block) (d : Data) : Response :=
  if gatedByRunning i = true ∧ b.running = true then ⟨.notReady, 0⟩
  else if gatedByChecksum i = true ∧ verifies b.msg = false then ⟨.invalid, 0⟩
  else ⟨.ok, d⟩

section Ranks

variable {i : Instr} {b : Block} (d : Data)

theorem gatedResponse_notReady (h : gatedByRunning i = true ∧ b.running = true) :
    gatedResponse i b d = ⟨.notReady, 0⟩ := if_pos h

theorem gatedResponse_invalid (h : gatedByChecksum i = true ∧ b.running = false ∧ verifies b.msg = false) :
    gatedResponse i b d = ⟨.invalid, 0⟩ := by
  obtain ⟨hsum, hrun, hver⟩ := h
  rw [gatedResponse, if_neg (by simp [hrun]), if_pos ⟨hsum, hver⟩]

theorem gatedResponse_ok (hrun : ¬ (gatedByRunning i = true ∧ b.running = true))
    (hsum : ¬ (gatedByChecksum i = true ∧ verifies b.msg = false)) : gatedResponse i b d = ⟨.ok, d⟩ := by
  rw [gatedResponse, if_neg hrun, if_neg hsum]

end Ranks

/-! ### Each command answers in that order -/

section Commands

variable {i : Instr} (s : State)

theorem respond_ok_eq_gatedResponse (hrun : gatedByRunning i = false) (hsum : gatedByChecksum i = false) (v : Data) :
    respond .ok v s = .next (s.emit (gatedResponse i s.block v)) := by
  simp [gatedResponse, hrun, hsum]

theorem readyGate_eq_gatedResponse (hrun : gatedByRunning i = true) (hsum : gatedByChecksum i = false) (v : Data) :
    readyGate v s = .next (s.emit (gatedResponse i s.block v)) := by
  simp [readyGate_eq, gatedResponse, hrun, hsum]

theorem fieldRespond_eq_gatedResponse (hrun : gatedByRunning i = true) (hsum : gatedByChecksum i = true) (v : Data) :
    fieldRespond v s = .next (s.emit (gatedResponse i s.block v)) := by
  cases hver : verifies s.block.msg <;> simp [fieldRespond_eq, gatedResponse, hrun, hsum, hver]

/-- Which of the three ways of answering a read command uses agrees with the lists of 60_exceptions.md R163 and R164;
its operand is in range, so the read does not answer ILLEGAL. -/
theorem exec_read_gatedResponse {c : Config} (hread : isRead i = true) (hwf : i.wf c = true) :
    ∃ d : Data, exec i s = .next (s.emit (gatedResponse i s.block d)) := by
  cases i with
  | start | stop | reset | edge => cases hread
  | isReady | getStatus | getScan | available => exact ⟨_, respond_ok_eq_gatedResponse s rfl rfl _⟩
  | getInvcnt | verify => exact ⟨_, readyGate_eq_gatedResponse s rfl rfl _⟩
  | getRaw idx | getMsg idx =>
    have hidx : idx ≤ 8 := of_decide_eq_true hwf
    simp only [exec, execGetRaw, execGetMsg, byteOperand_of_le _ hidx]
    exact ⟨_, readyGate_eq_gatedResponse s rfl rfl _⟩
  | getNib idx =>
    have hidx : idx ≤ 17 := of_decide_eq_true hwf
    simp only [exec, execGetNib, nibbleOperand_of_le _ hidx]
    exact ⟨_, readyGate_eq_gatedResponse s rfl rfl _⟩
  | temp | depth | devid | serid | lowbat | txint => exact ⟨_, fieldRespond_eq_gatedResponse s rfl rfl _⟩

/-- Every well-formed command returns one response in the order of precedence, and writes nothing else unless it is
OK. -/
theorem exec_gatedResponse {c : Config} (hi : ∀ now, i ≠ .edge now) (hwf : i.wf c = true) :
    ∃ (t : State) (d : Data), exec i s = .next t ∧ t.responses = s.responses ++ [gatedResponse i s.block d] ∧
      ((gatedResponse i s.block d).status ≠ .ok → t = s.emit (gatedResponse i s.block d)) := by
  rcases exec_cases s i with ⟨now, rfl, -⟩ | ⟨rfl, h⟩ | ⟨rfl, h⟩ | ⟨rfl, h⟩ | ⟨hread, -⟩
  · exact absurd rfl (hi now)
  · exact ⟨_, 0, h, rfl, fun hne => absurd rfl hne⟩
  · exact ⟨_, 0, h, rfl, fun hne => absurd rfl hne⟩
  · exact ⟨_, 0, h, rfl, fun hne => absurd rfl hne⟩
  · obtain ⟨d, h⟩ := exec_read_gatedResponse s hread hwf
    exact ⟨_, d, h, rfl, fun _ => rfl⟩

end Commands

/-- Settles O10: an illegal word is answered before any gate, and a legal one by the ranks of `gatedResponse`. -/
theorem statusPrecedence : Obligations.StatusPrecedence := by
  intro s w rest he
  cases hw : decodeCmd w with
  | illegal why => exact ⟨_, _, step_of_illegal s he hw, rfl, fun _ _ => rfl, nofun, fun _ => rfl⟩
  | op i =>
    have hi : ∀ now, i ≠ .edge now := fun now h => decodeCmd_ne_edge w now (h ▸ hw)
    obtain ⟨t, d, ht, hresp, hframe⟩ := exec_gatedResponse { s with events := rest } hi (decodeCmd_wf s.cfg hw)
    refine ⟨t, _, (step_of_op s he hw).trans ht, hresp, nofun, fun j hj => ?_, hframe⟩
    obtain rfl := Decoded.op.inj hj
    refine ⟨gatedResponse_notReady d, gatedResponse_invalid d,
      fun hrun hsum => congrArg Response.status (gatedResponse_ok d hrun hsum), ?failingVerify⟩
    rintro rfl hrun hver
    obtain rfl := Host.Outcome.next.inj (ht.symm.trans (exec_verify _))
    simpa [hrun, hver, boolData] using hresp.symm

end Sys2Proof.Machine
end

section
/-! PROOFS. The power-on state, and the capture that STOP leaves unfinished: what a step can do to the record when no
START and no RESET is to come (70_reset_and_hazards.md R180, R187). -/

namespace Sys2Proof.Machine

/-- Settles O1: every register has its power-on value for any parameters, and those of `State.reset` are open but for
TIME_W, a successor. -/
theorem powerOnStateIsTheSpecs : Obligations.PowerOnStateIsTheSpecs :=
  ⟨fun _ => ⟨rfl, rfl, rfl⟩, Config.block, Nat.le_add_left .., rfl⟩

/-! ### Steps without START and RESET -/

theorem restarts_eq_false_iff (e : Event) :
    restarts e = false ↔ decodeEvent e ≠ .op .start ∧ decodeEvent e ≠ .op .reset := by
  simp [restarts]

theorem State.noRestart_cons {s : State} {e : Event} {rest : List Event} (he : s.events = e :: rest) :
    s.noRestart = true ↔ restarts e = false ∧ State.noRestart { s with events := rest } = true := by
  simp [State.noRestart, he]

/-- What an event other than START and RESET can make of the record: nothing changes, or STOP unbinds it, or an edge
is delivered to it. -/
def Block.NextWithoutRestart (c : Config) (b b' : Block) : Prop :=
  b' = b ∨ b' = { b with bound := false } ∨ ∃ now, b' = b.edge c now

theorem exec_block_of_not_restart {i : Instr} {s t : State} (hstart : i ≠ .start) (hreset : i ≠ .reset)
    (h : exec i s = .next t) : t.events = s.events ∧ s.block.NextWithoutRestart s.cfg t.block := by
  rcases exec_cases s i with ⟨now, -, hx⟩ | ⟨hi, -⟩ | ⟨-, hx⟩ | ⟨hi, -⟩ | ⟨-, r, hx, -⟩
  case inr.inl => exact absurd hi hstart
  case inr.inr.inr.inl => exact absurd hi hreset
  all_goals obtain rfl := Host.Outcome.next.inj (hx.symm.trans h)
  · exact ⟨rfl, .inr (.inr ⟨_, rfl⟩)⟩
  · exact ⟨rfl, .inr (.inl rfl)⟩
  · exact ⟨rfl, .inl rfl⟩

/-- What a step can do to the record when no START and no RESET is to come, and none is to come after it. -/
theorem step_block_of_noRestart {s t : State} (hs : s.noRestart = true) (h : step s = .next t) :
    t.noRestart = true ∧ s.block.NextWithoutRestart s.cfg t.block := by
  rcases step_cases s with ⟨-, hx⟩ | ⟨e, rest, i, he, hd, hx⟩ | ⟨e, rest, -, he, -, hx⟩
  · obtain rfl := Host.Outcome.next.inj (hx.symm.trans h)
    exact ⟨hs, .inl rfl⟩
  · obtain ⟨hrestarts, hrest⟩ := (State.noRestart_cons he).mp hs
    obtain ⟨hstart, hreset⟩ := (restarts_eq_false_iff e).mp hrestarts
    obtain ⟨hevents, hblock⟩ := exec_block_of_not_restart (fun hi => hstart (hi ▸ hd)) (fun hi => hreset (hi ▸ hd))
      (hx.symm.trans h)
    exact ⟨by rwa [State.noRestart, hevents], hblock⟩
  · obtain rfl := Host.Outcome.next.inj (hx.symm.trans h)
    exact ⟨((State.noRestart_cons he).mp hs).2, .inl rfl⟩

/-! ### The unbound record -/

/-- An edge delivered while unbound is dropped (40_capture.md R75). -/
theorem Block.edge_of_unbound {b : Block} (hb : b.bound = false) (c : Config) (now : Nat) : b.edge c now = b := by
  simp [Block.edge, hb]

theorem Block.unbind_of_unbound {b : Block} (hb : b.bound = false) : { b with bound := false } = b := by
  rw [← hb]

/-- The record is the unbound `b`, and no event to come binds it again. -/
def State.StoppedAt (b : Block) (s : State) : Prop := s.block = b ∧ s.noRestart = true

theorem exec_stop_stoppedAt {s t : State} (hs : s.noRestart = true) (h : exec .stop s = .next t) :
    t.StoppedAt { s.block with bound := false } := by
  obtain rfl := Host.Outcome.next.inj ((exec_stop s).symm.trans h)
  exact ⟨rfl, hs⟩

theorem step_keeps_stoppedAt {b : Block} (hb : b.bound = false) (s t : State) (hs : s.StoppedAt b)
    (h : step s = .next t) : t.StoppedAt b := by
  obtain ⟨rfl, hrest⟩ := hs
  obtain ⟨ht, hsame | hstop | ⟨now, hedge⟩⟩ := step_block_of_noRestart hrest h
  · exact ⟨hsame, ht⟩
  · exact ⟨hstop.trans (Block.unbind_of_unbound hb), ht⟩
  · exact ⟨hedge.trans (Block.edge_of_unbound hb ..), ht⟩

/-- Settles O55: STOP leaves the record unbound, every step keeps it so, and its `running` is still 1. -/
theorem stoppedCaptureNeverFinishes : Obligations.StoppedCaptureNeverFinishes := by
  intro s t k hrun hs ht
  obtain ⟨u, hu, hblock, -⟩ := run_keeps (step_keeps_stoppedAt rfl) (exec_stop_stoppedAt hs ht) k
  have hurun : u.block.running = true := by rw [hblock, hrun]
  refine ⟨u, hu, hblock, by simp [State.readyO, hurun], ?_⟩
  rw [exec_isReady]
  simp [hurun, boolData, State.emit]

end Sys2Proof.Machine
end

section
/-! PROOFS. Decoding and encoding: the two agree (30_encoding.md R56, R57, R60, R63), and the words that spell an
operation are the 51 of 30_encoding.md section 4. -/

namespace Sys2Proof

/-! ### The two round trips -/

/-- An operation the ports can carry comes back from its own event, by the round trip of each operation. -/
theorem decodeEvent_encode {c : Config} : ∀ {i : Instr}, i.wf c = true → decodeEvent (encode i) = .op i
  | .start, h => Laws.RoundTrip.start c h
  | .stop, h => Laws.RoundTrip.stop c h
  | .reset, h => Laws.RoundTrip.reset c h
  | .isReady, h => Laws.RoundTrip.isReady c h
  | .getStatus, h => Laws.RoundTrip.getStatus c h
  | .getScan, h => Laws.RoundTrip.getScan c h
  | .getInvcnt, h => Laws.RoundTrip.getInvcnt c h
  | .getRaw idx, h => Laws.RoundTrip.getRaw idx c h
  | .getMsg idx, h => Laws.RoundTrip.getMsg idx c h
  | .getNib idx, h => Laws.RoundTrip.getNib idx c h
  | .verify, h => Laws.RoundTrip.verify c h
  | .available, h => Laws.RoundTrip.available c h
  | .temp, h => Laws.RoundTrip.temp c h
  | .depth, h => Laws.RoundTrip.depth c h
  | .devid, h => Laws.RoundTrip.devid c h
  | .serid, h => Laws.RoundTrip.serid c h
  | .lowbat, h => Laws.RoundTrip.lowbat c h
  | .txint, h => Laws.RoundTrip.txint c h
  | .edge now, h => Laws.RoundTrip.edge now c h

theorem cmdWord_toNat (opc idx : BitVec 8) : cmdWord opc idx.toNat = opc ++ idx := by
  rw [cmdWord, BitVec.ofNat_toNat, BitVec.setWidth_eq]

/-- Class N admits the one operand that the encoder writes for it. -/
theorem OperandClass.eq_zero_of_N_admits {idx : BitVec 8} (h : OperandClass.N.admits idx.toNat = true) : idx = 0 :=
  BitVec.eq_of_toNat_eq (of_decide_eq_true h)

/-- The encoder writes back the row's operation code and the operand the row was given. -/
theorem encode_of_row {opc idx : BitVec 8} {cls : OperandClass} {mk : Nat → Instr}
    (hrow : opcodeRow opc = some (cls, mk)) (hadmits : cls.admits idx.toNat = true) :
    encode (mk idx.toNat) = .cmd (opc ++ idx) := by
  have hself : opc = BitVec.ofNat 8 opc.toNat := by simp
  unfold opcodeRow at hrow
  split at hrow <;> cases hrow
  -- The rows of GET_RAW, GET_MSG and GET_NIB carry their operand; every other row is of class N.
  case h_8 hopc | h_9 hopc | h_10 hopc =>
    rw [hself, hopc]
    exact congrArg Event.cmd (cmdWord_toNat _ idx)
  all_goals
    next hopc =>
      rw [hself, hopc, OperandClass.eq_zero_of_N_admits hadmits]
      rfl

theorem encode_of_decodeCmd {w : CmdWord} {i : Instr} (h : decodeCmd w = .op i) : encode i = .cmd w := by
  obtain ⟨opc, idx, rfl⟩ := append_fields w
  rw [decodeCmd_append] at h
  split at h
  · cases h
  · next hrow =>
    split at h
    · next hadmits =>
      cases h
      exact encode_of_row hrow hadmits
    · cases h

/-- Settles O8: from left to right by the row that decoded the word, from right to left by the round trip of the
operation. -/
theorem decodeAndEncodeAgree : Obligations.DecodeAndEncodeAgree := by
  refine fun c e i hport => ⟨fun h => ?_, fun ⟨hwf, he⟩ => he ▸ decodeEvent_encode hwf⟩
  cases e with
  | edge now =>
    obtain rfl : .edge now = i := Decoded.op.inj h
    exact ⟨decide_eq_true (hport now rfl), rfl⟩
  | cmd w => exact ⟨decodeCmd_wf c h, encode_of_decodeCmd h⟩

/-! ### The words that spell an operation -/

/-- Every operation a command word can spell, with every operand of its class (30_encoding.md R60, R61). -/
def commands : List Instr :=
  [.start, .stop, .reset, .isReady, .getStatus, .getScan, .getInvcnt, .verify, .available, .temp, .depth, .devid,
    .serid, .lowbat, .txint] ++
  (List.range 9).map .getRaw ++ (List.range 9).map .getMsg ++ (List.range 18).map .getNib

theorem mem_commands_iff (c : Config) (i : Instr) :
    i ∈ commands ↔ i.wf c = true ∧ ∀ now, i ≠ .edge now := by
  cases i <;> simp [commands, Instr.wf, byteIndexOk, nibblePosOk] <;> omega

/-- The command word of an operation, none for an edge. -/
def commandWord (i : Instr) : Option CmdWord :=
  match encode i with
  | .cmd w => some w
  | .edge _ => none

theorem commandWord_eq_some_iff (i : Instr) (w : CmdWord) : commandWord i = some w ↔ encode i = .cmd w := by
  unfold commandWord
  split <;> simp_all

/-- The words that spell an operation. -/
def legalWords : List CmdWord := commands.filterMap commandWord

theorem mem_legalWords_iff (w : CmdWord) : w ∈ legalWords ↔ ∃ i, decodeCmd w = .op i := by
  simp only [legalWords, List.mem_filterMap, commandWord_eq_some_iff]
  refine ⟨fun ⟨i, hi, he⟩ => ⟨i, ?_⟩, fun ⟨i, h⟩ => ⟨i, ?_, encode_of_decodeCmd h⟩⟩
  · obtain ⟨hwf, -⟩ := (mem_commands_iff .block i).mp hi
    exact (congrArg decodeEvent he).symm.trans (decodeEvent_encode hwf)
  · exact (mem_commands_iff .block i).mpr ⟨decodeCmd_wf _ h, fun now hi => decodeCmd_ne_edge w now (hi ▸ h)⟩

theorem illegal_iff_notMem_legalWords (w : CmdWord) : (∃ why, decodeCmd w = .illegal why) ↔ w ∉ legalWords := by
  rw [mem_legalWords_iff]
  cases decodeCmd w <;> simp

theorem commands_nodup : commands.Nodup := by decide

/-- No two operations have one word, since each decodes from its own. -/
theorem legalWords_nodup : legalWords.Nodup := by
  have hdecode : legalWords.map decodeCmd = commands.map .op := by decide
  refine List.Nodup.of_map decodeCmd ?_
  rw [hdecode]
  exact commands_nodup.map fun _ _ => Decoded.op.inj

/-- Settles O6: the legal words are those of the commands, fifteen of class N, two rows of class B and one of
class P. -/
theorem exactlyFiftyOneWordsAreOperations : Obligations.ExactlyFiftyOneWordsAreOperations :=
  ⟨legalWords, legalWords_nodup, rfl,
    fun w => ⟨(mem_legalWords_iff w).symm, illegal_iff_notMem_legalWords w⟩⟩

/-- Settles O7, word by word of the opcode map. -/
theorem spelledWordsDecode : Obligations.SpelledWordsDecode := by
  unfold Obligations.SpelledWordsDecode
  decide

end Sys2Proof
end

section
/-! PROOFS. The step as a whole: it runs the event that is presented next (30_encoding.md R58), it always answers
(60_exceptions.md R160, R176), and a read command can be repeated (20_memory.md R46). -/

namespace Sys2Proof.Machine

/-! ### A presented event -/

theorem step_present_of_op {e : Event} {i : Instr} (h : decodeEvent e = .op i) (s : State) :
    step (s.present e) = exec i s := step_of_op (s.present e) rfl h

/-- A step answers with what the decoded operation answers, the event consumed. -/
theorem step_of_exec {s t : State} {e : Event} {rest : List Event} {i : Instr} (he : s.events = e :: rest)
    (hd : decodeEvent e = .op i) (hx : exec i { s with events := rest } = .next t) : step s = .next t :=
  (step_of_op s he hd).trans hx

theorem step_of_edge {s : State} {now : Nat} {rest : List Event} (he : s.events = .edge now :: rest) :
    step s = .next { s with block := s.block.edge s.cfg (portTime s.cfg now), events := rest } :=
  step_of_exec he rfl (exec_edge ..)

theorem withFetchWord_of_command (s : State) (w : CmdWord) : s.withFetchWord 16 w.toNat = s.present (.cmd w) := by
  simp [State.withFetchWord, tableEvent]

/-- Settles O3: a step runs the operation of its event, and a row of the table presents the event of its port. -/
theorem stepRunsTheDecodedInstruction : Obligations.StepRunsTheDecodedInstruction := by
  refine ⟨fun s e rest i => step_of_op s, fun _ => rfl, fun _ => rfl, fun s w i h => ?_, fun s now => ?_⟩
  · rw [withFetchWord_of_command]
    exact step_present_of_op (e := .cmd w) h s
  · exact step_present_of_op rfl s

/-! ### Progress -/

theorem exec_next (i : Instr) (s : State) : ∃ t, exec i s = .next t := by
  rcases exec_cases s i with ⟨now, -, h⟩ | ⟨-, h⟩ | ⟨-, h⟩ | ⟨-, h⟩ | ⟨-, r, h, -⟩ <;> exact ⟨_, h⟩

/-- Settles O4: each case of a step and of an operation is a next state, and waiting is the state itself. -/
theorem everyStepAnswersANextState : Obligations.EveryStepAnswersANextState :=
  ⟨fun s => (step_next s).imp fun _ => And.left, fun s i => exec_next i s, step_of_no_event⟩

/-! ### Timestamps -/

theorem portTime_portTime (c : Config) (now : Nat) : portTime c (now % 2 ^ c.timeW) = portTime c now :=
  Nat.mod_mod ..

/-- Settles O35: an edge reads its timestamp through `portTime` alone. -/
theorem timestampIsReadModuloItsWidth : Obligations.TimestampIsReadModuloItsWidth := fun s now => by
  rw [exec_edge, exec_edge, portTime_portTime]

/-! ### Repeating a read -/

/-- A read command returns the same response from two records that agree on what can be read. -/
theorem exec_read_of_sameReadable {s s' : State} {i : Instr} (hread : isRead i = true)
    (h : s.block.SameReadable s'.block) :
    ∃ r : Response, exec i s = .next (s.emit r) ∧ exec i s' = .next (s'.emit r) := by
  obtain ⟨r, hr, -⟩ := exec_read s hread
  obtain ⟨r', hr', -⟩ := exec_read s' hread
  have hi (now : Nat) : i ≠ .edge now := by
    rintro rfl
    exact Bool.noConfusion hread
  obtain ⟨t, t', q, ht, ht', hq, hq'⟩ := exec_sameResponse hi h
  obtain rfl := Host.Outcome.next.inj (hr.symm.trans ht)
  obtain rfl := Host.Outcome.next.inj (hr'.symm.trans ht')
  have hrq : r = q := by simpa using hq
  have hrq' : r' = q := by simpa using hq'
  exact ⟨q, hrq ▸ hr, hrq' ▸ hr'⟩

theorem Block.SameReadable.refl (b : Block) : b.SameReadable b := ⟨rfl, rfl, rfl, rfl, rfl, rfl, rfl, rfl⟩

/-- Settles O49: the response of the first reading changes nothing that the second one reads. -/
theorem readCommandsAreIdempotent : Obligations.ReadCommandsAreIdempotent := by
  intro i s hread
  obtain ⟨r, hfirst, -⟩ := exec_read s hread
  obtain ⟨q, hq, hagain⟩ := exec_read_of_sameReadable (s' := s.emit r) hread (.refl s.block)
  obtain rfl : r = q := by simpa using congrArg State.responses (Host.Outcome.next.inj (hfirst.symm.trans hq))
  refine ⟨r, hfirst, hagain.trans ?_⟩
  simp [State.emit]

end Sys2Proof.Machine
end

section
/-! PROOFS. The invariant of 10_state.md R34: it holds at power-on, every operation keeps it, so it holds of every
reachable state; and what it says of the rise and fall of `ready_o` (10_state.md R35; 60_exceptions.md R169). -/

namespace Sys2Proof.Machine

variable {b : Block} {c : Config}

/-! ### Cleared records -/

/-- Clearing a capture establishes every condition: only the width of `lastEdgeTime`, which it keeps, is assumed. -/
theorem Block.clearCapture_inv (h : b.lastEdgeTime < 2 ^ c.timeW) : b.clearCapture.Inv c where
  cursor_le := by simp
  seeking _ := by simp
  complete_iff := by simp
  complete_phase := by simp
  decoded := by simp
  clear _ := by simp
  unrecorded _ := by simp
  lastEdgeTime_lt := h
  scanTiming_lt := by simp
  tbuf_lt := by simp
  invCount_le := by simp

/-- The power-on record is a cleared one. -/
theorem Block.powerOn_inv (c : Config) : Block.powerOn.Inv c :=
  Block.clearCapture_inv (b := Block.powerOn) (Nat.two_pow_pos _)

/-- Settles O2: the power-on record meets the conditions for any parameters. -/
theorem resetMeetsTheInvariant : Obligations.ResetMeetsTheInvariant :=
  ⟨⟨Nat.le_add_left .., Block.powerOn_inv _⟩, fun c hc => ⟨hc, Block.powerOn_inv c⟩⟩

/-! ### Each write of the record -/

/-- No condition speaks of `bound`. -/
theorem Block.Inv.setBound (h : b.Inv c) (x : Bool) : Block.Inv c { b with bound := x } := { h with }

theorem Block.Inv.setLastEdgeTime (h : b.Inv c) {now : Nat} (hnow : now < 2 ^ c.timeW) :
    Block.Inv c { b with lastEdgeTime := now } := { h with lastEdgeTime_lt := hnow }

/-- A capture in progress has not reached the end of the buffer. -/
theorem Block.Inv.cursor_lt (h : b.Inv c) (hrun : b.running = true) : b.cursor < 144 := by
  have hne : b.cursor ≠ 144 := fun hc => absurd (h.complete_iff.mpr hc) (by simp [hrun])
  have := h.cursor_le
  omega

/-- SEEK starts recording with a buffer that is still clear (40_capture.md R77). -/
theorem Block.Inv.startRecording (h : b.Inv c) (hrun : b.running = true) (hseek : b.phase = .seeking) {i : Nat}
    (hi : i < 2 ^ c.timeW) : Block.Inv c { b with phase := .recording, scanTiming := i, cursor := 0 } := by
  obtain ⟨-, -, -, hclear⟩ := h.seeking hseek
  exact { h with
    cursor_le := Nat.zero_le _
    seeking := nofun
    complete_iff := by simp [hrun]
    complete_phase := fun _ => rfl
    unrecorded := fun _ _ j _ => hclear j
    scanTiming_lt := hi }

theorem Block.Inv.setIfInBounds_lt (h : b.Inv c) {i : Nat} (hi : i < 2 ^ c.timeW) (j : Fin 144) :
    (b.tbuf.setIfInBounds b.cursor i)[j] < 2 ^ c.timeW := by
  rw [Fin.getElem_fin, Vector.getElem_setIfInBounds]
  split
  · exact hi
  · exact h.tbuf_lt j

/-- A store below the last entry keeps the capture in progress: the entries after it are still clear
(40_capture.md R78). -/
theorem Block.Inv.store (h : b.Inv c) (hrun : b.running = true) (hrec : b.phase = .recording)
    (hlt : b.cursor < 143) {i : Nat} (hi : i < 2 ^ c.timeW) : (b.store i).Inv c :=
  { cursor_le := by simp; omega
    seeking := by simp [hrec]
    complete_iff := by simp [hrun]; omega
    complete_phase := h.complete_phase
    decoded := by simp [hrun]
    clear := h.clear
    lastEdgeTime_lt := h.lastEdgeTime_lt
    scanTiming_lt := h.scanTiming_lt
    invCount_le := h.invCount_le
    unrecorded := fun _ _ j hj => by
      have hj' : b.cursor + 1 ≤ j.val := hj
      rw [Fin.getElem_fin, Block.store_tbuf, Vector.getElem_setIfInBounds, if_neg (by omega)]
      exact h.unrecorded hrun hrec j (by omega)
    tbuf_lt := h.setIfInBounds_lt hi }

/-- The store of the last entry completes the capture and loads its decode (40_capture.md R78; 42_assembler.md
R110). -/
theorem Block.Inv.storeLast (h : b.Inv c) (hrun : b.running = true) (hrec : b.phase = .recording)
    (hge : 143 ≤ b.cursor) {i : Nat} (hi : i < 2 ^ c.timeW) :
    (Block.complete c { b.store i with running := false }).Inv c := by
  have hlt := h.cursor_lt hrun
  exact {
    cursor_le := by simp; omega
    seeking := by simp [hrec]
    complete_iff := by simp; omega
    complete_phase := by simp [hrec]
    decoded := by simp
    clear := by simp
    unrecorded := by simp
    lastEdgeTime_lt := by simpa using h.lastEdgeTime_lt
    scanTiming_lt := by simpa using h.scanTiming_lt
    tbuf_lt := by simpa using h.setIfInBounds_lt hi
    invCount_le := by simpa using countInvalid_le _ }

/-! ### Every step -/

/-- An edge keeps the conditions, in each of its six cases. -/
theorem Block.Inv.edge (h : b.Inv c) {now : Nat} (hnow : now < 2 ^ c.timeW) : (b.edge c now).Inv c := by
  have hnext := h.setLastEdgeTime hnow
  have hi := interval_lt c now b.lastEdgeTime
  rcases b.edge_cases c now with ⟨-, he⟩ | ⟨-, -, he⟩ | ⟨-, -, -, -, he⟩ | ⟨-, hrun, hseek, -, he⟩ |
    ⟨-, hrun, hrec, hlt, he⟩ | ⟨-, hrun, hrec, hge, he⟩ <;> rw [he]
  · exact h
  · exact hnext
  · exact hnext
  · exact hnext.startRecording hrun hseek hi
  · exact hnext.store hrun hrec hlt hi
  · exact hnext.storeLast hrun hrec hge hi

theorem exec_keeps_inv {i : Instr} {s t : State} (h : Inv s) (ht : exec i s = .next t) : Inv t := by
  obtain ⟨hc, hb⟩ := h
  rcases exec_cases s i with ⟨now, -, hx⟩ | ⟨-, hx⟩ | ⟨-, hx⟩ | ⟨-, hx⟩ | ⟨-, r, hx, -⟩ <;>
    obtain rfl := Host.Outcome.next.inj (hx.symm.trans ht)
  · exact ⟨hc, hb.edge (portTime_lt s.cfg now)⟩
  · exact ⟨hc, Block.clearCapture_inv hb.lastEdgeTime_lt⟩
  · exact ⟨hc, hb.setBound false⟩
  · exact ⟨hc, Block.clearCapture_inv hb.lastEdgeTime_lt⟩
  · exact ⟨hc, hb⟩

/-- Settles O52: the operation of the event keeps the invariant, which does not speak of the ports. -/
theorem everyStepKeepsTheInvariant : Obligations.EveryStepKeepsTheInvariant := by
  intro s t h ht
  rcases step_cases s with ⟨-, hx⟩ | ⟨e, rest, i, -, -, hx⟩ | ⟨e, rest, why, -, -, hx⟩
  · exact Host.Outcome.next.inj (hx.symm.trans ht) ▸ h
  · exact exec_keeps_inv (s := { s with events := rest }) ⟨h.timeW_pos, h.block⟩ (hx.symm.trans ht)
  · exact Host.Outcome.next.inj (hx.symm.trans ht) ▸ ⟨h.timeW_pos, h.block⟩

/-- The parameters are `c`, and the state meets the invariant. -/
def State.InvAt (c : Config) (s : State) : Prop := s.cfg = c ∧ Inv s

theorem step_keeps_invAt (s t : State) (h : s.InvAt c) (ht : step s = .next t) : t.InvAt c := by
  obtain ⟨hc, hinv⟩ := h
  obtain ⟨t', ht', hcfg⟩ := step_next s
  obtain rfl := Host.Outcome.next.inj (ht'.symm.trans ht)
  exact ⟨hcfg.trans hc, everyStepKeepsTheInvariant s t' hinv ht⟩

/-- Settles O53: the invariant holds at power-on, whatever events are to come, and every step keeps it. -/
theorem reachableStatesMeetR34 : Obligations.ReachableStatesMeetR34 := by
  intro c evs k hc
  have hstart : State.InvAt c { State.powerOn c with events := evs } := ⟨rfl, hc, Block.powerOn_inv c⟩
  obtain ⟨t, ht, rfl, hinv⟩ := run_keeps step_keeps_invAt hstart k
  exact ⟨t, ht, rfl, hinv.block⟩

/-! ### The output level -/

/-- A step that moves `running` ran an edge, from 1 to 0, or START or RESET, from 0 to 1. -/
theorem step_running_ne {s t : State} (ht : step s = .next t) (hne : t.block.running ≠ s.block.running) :
    (∃ now rest, s.events = .edge now :: rest ∧ t.block = s.block.edge s.cfg (portTime s.cfg now)) ∨
    (∃ e rest, s.events = e :: rest ∧ (decodeEvent e = .op .start ∨ decodeEvent e = .op .reset) ∧
      t.block.running = true) := by
  rcases step_cases s with ⟨-, hx⟩ | ⟨e, rest, i, he, hd, hx⟩ | ⟨e, rest, why, -, -, hx⟩
  · exact absurd (Host.Outcome.next.inj (hx.symm.trans ht) ▸ rfl) hne
  · have hexec := hx.symm.trans ht
    obtain ⟨-, -, -, -, -, hrunning, -⟩ := writersOfEachField i _ t hexec
    rcases hrunning hne with ⟨⟨now, rfl⟩, -⟩ | ⟨rfl | rfl, hrun⟩
    · cases e with
      | edge now' =>
        cases hd
        exact .inl ⟨_, rest, he, Host.Outcome.next.inj hexec ▸ rfl⟩
      | cmd w => exact absurd hd (decodeCmd_ne_edge w now)
    · exact .inr ⟨e, rest, he, .inl hd, hrun⟩
    · exact .inr ⟨e, rest, he, .inr hd, hrun⟩
  · exact absurd (Host.Outcome.next.inj (hx.symm.trans ht) ▸ rfl) hne

/-- An edge that ends the capture was delivered in Recording at the last entry (40_capture.md R78). -/
theorem Block.Inv.edge_completes (h : b.Inv c) {now : Nat} (hrun : b.running = true)
    (hdone : (b.edge c now).running = false) :
    b.bound = true ∧ b.phase = .recording ∧ b.cursor = 143 ∧ (b.edge c now).cursor = 144 := by
  have hlt := h.cursor_lt hrun
  rcases b.edge_cases c now with ⟨-, he⟩ | ⟨-, -, he⟩ | ⟨-, -, -, -, he⟩ | ⟨-, -, -, -, he⟩ | ⟨-, -, -, -, he⟩ |
    ⟨hbound, -, hrec, hge, he⟩
  case inr.inr.inr.inr.inr => exact ⟨hbound, hrec, by omega, by simp [he]; omega⟩
  all_goals simp [he, hrun] at hdone

theorem Block.edge_of_last (hbound : b.bound = true) (hrun : b.running = true) (hrec : b.phase = .recording)
    (hlast : b.cursor = 143) (now : Nat) : (b.edge c now).running = false := by
  simp [Block.edge, hbound, hrun, hrec, Block.record, hlast, capacity]

theorem exec_restart_running {i : Instr} (hi : i = .start ∨ i = .reset) {s t : State} (ht : exec i s = .next t) :
    t.block.running = true := by
  rcases hi with rfl | rfl <;> exact Host.Outcome.next.inj ht ▸ rfl

/-- Settles O58: the output level is the negation of `running`, which the invariant ties to the cursor. -/
theorem readyOutputRisesAndFalls : Obligations.ReadyOutputRisesAndFalls := by
  intro s t hinv ht
  simp only [State.readyO, Bool.not_eq_true', Bool.not_eq_false']
  refine ⟨fun hrun hdone => ?rise, fun hdone hrun => ?fall, fun now rest he hbound hrun hrec hlast => ?edge,
    fun e rest he hd => ?restart⟩
  case rise =>
    rcases step_running_ne ht (by simp [hrun, hdone]) with ⟨now, rest, he, hblock⟩ | ⟨-, -, -, -, hrun'⟩
    · obtain ⟨hbound, hrec, hcursor, hcursor'⟩ := hinv.block.edge_completes hrun (hblock ▸ hdone)
      exact ⟨now, rest, he, hbound, hrec, hcursor, hblock ▸ hcursor'⟩
    · exact absurd hrun' (by simp [hdone])
  case fall =>
    rcases step_running_ne ht (by simp [hrun, hdone]) with ⟨now, rest, he, hblock⟩ | ⟨e, rest, he, hd, -⟩
    · have hne : (s.block.edge s.cfg (portTime s.cfg now)).running ≠ s.block.running := by simp [← hblock, hrun, hdone]
      obtain ⟨hrun', -⟩ := Block.edge_running_ne hne
      exact absurd hrun' (by simp [hdone])
    · exact ⟨e, rest, he, hd⟩
  case edge =>
    obtain rfl := Host.Outcome.next.inj ((step_of_edge he).symm.trans ht)
    exact Block.edge_of_last hbound hrun hrec hlast _
  case restart =>
    rcases hd with hd | hd
    · exact exec_restart_running (.inl rfl) ((step_of_op s he hd).symm.trans ht)
    · exact exec_restart_running (.inr rfl) ((step_of_op s he hd).symm.trans ht)

end Sys2Proof.Machine
end

section
/-! PROOFS. The completed capture: no event but START and RESET changes what a host reads of it (20_memory.md R49;
70_reset_and_hazards.md R192), so READMSG returns one capture (70_reset_and_hazards.md R184) and the order of an edge
and a read does not matter (20_memory.md R48). -/

namespace Sys2Proof.Machine

variable {b : Block}

/-! ### Edges delivered to a complete capture -/

/-- Of a complete record an edge moves nothing but `lastEdgeTime` (40_capture.md R75). -/
theorem Block.edge_of_complete (hdone : b.running = false) (c : Config) (now : Nat) :
    ∃ last, b.edge c now = { b with lastEdgeTime := last } := by
  rcases b.edge_cases c now with ⟨-, h⟩ | ⟨-, -, h⟩ | ⟨-, hrun, -⟩ | ⟨-, hrun, -⟩ | ⟨-, hrun, -⟩ | ⟨-, hrun, -⟩
  case inl => exact ⟨b.lastEdgeTime, h⟩
  case inr.inl => exact ⟨now, h⟩
  all_goals exact absurd hrun (by simp [hdone])

/-! ### Stability -/

theorem Block.SameCapture.refl (b : Block) : b.SameCapture b := ⟨rfl, rfl, rfl, rfl, rfl, rfl, rfl, rfl, rfl⟩

theorem Block.SameCapture.trans {b₁ b₂ b₃ : Block} (h : b₁.SameCapture b₂) (h' : b₂.SameCapture b₃) :
    b₁.SameCapture b₃ :=
  ⟨h'.running.trans h.running, h'.phase.trans h.phase, h'.cursor.trans h.cursor, h'.scanTiming.trans h.scanTiming,
    h'.tbuf.trans h.tbuf, h'.sym.trans h.sym, h'.raw.trans h.raw, h'.msg.trans h.msg, h'.invCount.trans h.invCount⟩

/-- `bound` and `lastEdgeTime` are no part of a capture. -/
theorem Block.sameCapture_setBound_setLastEdgeTime (b : Block) (x : Bool) (last : Nat) :
    b.SameCapture { b with bound := x, lastEdgeTime := last } := ⟨rfl, rfl, rfl, rfl, rfl, rfl, rfl, rfl, rfl⟩

theorem Block.sameCapture_of_nextWithoutRestart {c : Config} {b' : Block} (hdone : b.running = false)
    (h : b.NextWithoutRestart c b') : b.SameCapture b' := by
  rcases h with rfl | rfl | ⟨now, rfl⟩
  · exact .refl _
  · exact b.sameCapture_setBound_setLastEdgeTime false b.lastEdgeTime
  · obtain ⟨last, h⟩ := Block.edge_of_complete hdone c now
    rw [h]
    exact b.sameCapture_setBound_setLastEdgeTime b.bound last

/-- The record shows the capture of the complete record `b`, and no event to come restarts it. -/
def State.Shows (b : Block) (s : State) : Prop := b.SameCapture s.block ∧ s.noRestart = true

theorem step_keeps_shows (hdone : b.running = false) (s t : State) (h : s.Shows b) (ht : step s = .next t) :
    t.Shows b := by
  obtain ⟨hsame, hs⟩ := h
  obtain ⟨ht', hnext⟩ := step_block_of_noRestart hs ht
  exact ⟨hsame.trans (Block.sameCapture_of_nextWithoutRestart (hsame.running.trans hdone) hnext), ht'⟩

/-- Settles O54: every step without START and RESET keeps the complete capture, so every run does. -/
theorem completedCaptureIsStable : Obligations.CompletedCaptureIsStable := by
  intro s k hdone hs
  have hstart : s.Shows s.block := ⟨.refl _, hs⟩
  obtain ⟨t, ht, hsame, -⟩ := run_keeps (step_keeps_shows hdone) hstart k
  exact ⟨t, ht, hsame⟩

/-! ### Reading the message -/

/-- The response to GET_MSG `i` of a complete capture of the message `m` (42_assembler.md R113). -/
def byteResponse (m : Vector Byte 9) (i : Fin 9) : Response := ⟨.ok, m[i].setWidth 32⟩

/-- The run has consumed its events, up to `rest`, and returned the bytes `reads` of the complete capture of `s`. -/
structure State.HasRead (s : State) (rest : List Event) (reads : List (Fin 9)) (t : State) : Prop where
  events : t.events = rest
  running : t.block.running = false
  msg : t.block.msg = s.block.msg
  responses : t.responses = s.responses ++ reads.map (byteResponse s.block.msg)

theorem step_edge_of_complete {s : State} {now : Nat} {rest : List Event} (hdone : s.block.running = false)
    (he : s.events = .edge now :: rest) : ∃ t, step s = .next t ∧ s.HasRead rest [] t := by
  obtain ⟨last, h⟩ := Block.edge_of_complete hdone s.cfg (portTime s.cfg now)
  refine ⟨_, step_of_edge he, rfl, ?_, ?_, by simp⟩ <;> simp [h, hdone]

theorem step_getMsg_of_complete {s : State} {i : Fin 9} {rest : List Event} (hdone : s.block.running = false)
    (he : s.events = encode (.getMsg i) :: rest) : ∃ t, step s = .next t ∧ s.HasRead rest [i] t := by
  have hi : i.val ≤ 8 := by omega
  have hd : decodeEvent (encode (.getMsg i)) = .op (.getMsg i) :=
    Laws.RoundTrip.getMsg i .block (decide_eq_true hi)
  refine ⟨_, step_of_exec he hd (exec_getMsg_of_le _ hi), rfl, hdone, rfl, ?_⟩
  simp [hdone, byteResponse]

theorem State.HasRead.trans {s t u : State} {rest rest' : List Event} {reads reads' : List (Fin 9)}
    (h : s.HasRead rest reads t) (h' : t.HasRead rest' reads' u) : s.HasRead rest' (reads ++ reads') u where
  events := h'.events
  running := h'.running
  msg := h'.msg.trans h.msg
  responses := by simp [h'.responses, h.msg, h.responses]

/-- By induction on the events: an edge reads nothing, and a command is the next GET_MSG. -/
theorem run_reads {evs rest : List Event} {reads : List (Fin 9)} {s : State} (hdone : s.block.running = false)
    (he : s.events = evs ++ rest)
    (hcmds : evs.filter (fun e => !isEdge e) = reads.map fun i => encode (.getMsg i.val)) :
    ∃ t, Host.Core.run Sys2Proof.core evs.length s = .next t ∧ s.HasRead rest reads t := by
  induction evs generalizing s reads with
  | nil =>
    obtain rfl : reads = [] := by simpa using hcmds.symm
    exact ⟨s, rfl, he, hdone, rfl, by simp⟩
  | cons e evs ih =>
    cases e with
    | edge now =>
      obtain ⟨t, ht, hread⟩ := step_edge_of_complete hdone he
      obtain ⟨u, hu, hread'⟩ := ih hread.running hread.events hcmds
      exact ⟨u, (run_succ ht).trans hu, hread.trans hread'⟩
    | cmd w =>
      obtain ⟨i, reads, rfl, hw, hrest⟩ := List.map_eq_cons_iff.mp (hcmds.symm.trans (List.filter_cons_of_pos rfl))
      obtain ⟨t, ht, hread⟩ := step_getMsg_of_complete (i := i) hdone (by rw [hw]; exact he)
      obtain ⟨u, hu, hread'⟩ := ih hread.running hread.events hrest.symm
      exact ⟨u, (run_succ ht).trans hu, hread.trans hread'⟩

/-- Settles O57: the nine reads of READMSG, with their edges. -/
theorem nineReadsReturnOneCapture : Obligations.NineReadsReturnOneCapture := by
  intro s evs rest hdone he hcmds
  have hrange : ((List.range 9).map fun i => encode (.getMsg i)) =
      (List.finRange 9).map fun i : Fin 9 => encode (.getMsg i.val) := rfl
  obtain ⟨t, ht, hread⟩ := run_reads hdone he (hcmds.trans hrange)
  refine ⟨t, ht, hread.events, hread.msg, hread.responses.trans ?_⟩
  rw [List.ofFn_eq_map]
  rfl

/-! ### The order of an edge and a read command -/

theorem run_two {s t u : State} (h : step s = .next t) (h' : step t = .next u) :
    Host.Core.run Sys2Proof.core 2 s = .next u := by
  rw [run_succ h, run_succ h', run_zero]

/-- The two records that a read sees, before an edge and after it, agree on what can be read. -/
theorem Block.sameReadable_edge_of_complete (hdone : b.running = false) (c : Config) (now : Nat) :
    b.SameReadable (b.edge c now) := by
  obtain ⟨last, h⟩ := Block.edge_of_complete hdone c now
  rw [h]
  exact Block.sameReadable_hidden ..

/-- Settles O59: after completion the read answers alike on both sides of the edge and the two writes commute; on the
completing edge the two readings of IS_READY see the two values of `running`. -/
theorem orderOfAnEdgeAndACommand : Obligations.OrderOfAnEdgeAndACommand := by
  refine ⟨fun s now w i rest hdone hd hread => ?complete, fun s now rest hbound hrun hrec hlast => ?completing⟩
  case complete =>
    have hsame := Block.sameReadable_edge_of_complete hdone s.cfg (portTime s.cfg now)
    obtain ⟨r, hbefore, hafter⟩ := exec_read_of_sameReadable (s := { s with events := .edge now :: rest })
      (s' := { s with block := s.block.edge s.cfg (portTime s.cfg now), events := rest }) hread hsame
    have hword : decodeEvent (.cmd w) = .op i := hd
    exact ⟨_, run_two (step_of_edge rfl) (step_of_exec rfl hword hafter),
      run_two (step_of_exec rfl hword hbefore) (step_of_edge rfl)⟩
  case completing =>
    have hword : decodeEvent (.cmd 0x1000) = .op .isReady := by decide
    have hdone := Block.edge_of_last (c := s.cfg) hbound hrun hrec hlast (portTime s.cfg now)
    refine ⟨_, _, run_two (step_of_edge rfl) (step_of_exec rfl hword (exec_isReady _)),
      run_two (step_of_exec rfl hword (exec_isReady _)) (step_of_edge rfl), rfl, ?_, ?_⟩
    · simp [hdone, boolData]
    · simp [hrun, boolData]

end Sys2Proof.Machine
end

section
/-! PROOFS. A capture from its scan gap to its completion: 144 edges fill the buffer in index order and complete the
capture, whatever reads and illegal words fall between (20_memory.md section 1; 40_capture.md R75, R78). -/

namespace Sys2Proof.Machine

variable (c : Config)

/-! ### A run of edges among reads and illegal words -/

/-- The record after some edges, in delivery order. -/
def Block.edges (b : Block) (times : List Nat) : Block := times.foldl (fun b now => b.edge c now) b

/-- An event that is no START, RESET, STOP or edge leaves the record as it is. -/
theorem step_block_of_command {s : State} {w : CmdWord} {rest : List Event} (he : s.events = .cmd w :: rest)
    (hrestart : restarts (.cmd w) = false) (hstop : decodeEvent (.cmd w) ≠ .op .stop) :
    ∃ t, step s = .next t ∧ t.events = rest ∧ t.cfg = s.cfg ∧ t.block = s.block := by
  cases hd : decodeEvent (.cmd w) with
  | illegal why => exact ⟨_, step_of_illegal s he hd, rfl, rfl, rfl⟩
  | op i =>
    obtain ⟨hstart, hreset⟩ := (restarts_eq_false_iff _).mp hrestart
    have hx := step_of_op s he hd
    rcases exec_cases { s with events := rest } i with ⟨now, rfl, -⟩ | ⟨rfl, -⟩ | ⟨rfl, -⟩ | ⟨rfl, -⟩ | ⟨-, r, h, -⟩
    · exact absurd hd (decodeCmd_ne_edge w now)
    · exact absurd hd hstart
    · exact absurd hd hstop
    · exact absurd hd hreset
    · exact ⟨_, hx.trans h, rfl, rfl, rfl⟩

/-- By induction on the events: only the edges among them act on the record. -/
theorem run_block_eq_edges {evs rest : List Event} {s : State} (he : s.events = evs ++ rest)
    (htimes : ∀ now ∈ edgeTimes evs, now < 2 ^ s.cfg.timeW)
    (hcmds : ∀ e ∈ evs, restarts e = false ∧ decodeEvent e ≠ .op .stop) :
    ∃ t, Host.Core.run Sys2Proof.core evs.length s = .next t ∧ t.events = rest ∧ t.cfg = s.cfg ∧
      t.block = s.block.edges s.cfg (edgeTimes evs) := by
  induction evs generalizing s with
  | nil => exact ⟨s, rfl, he, rfl, rfl⟩
  | cons e evs ih =>
    obtain ⟨⟨hrestart, hstop⟩, hrest⟩ := List.forall_mem_cons.mp hcmds
    cases e with
    | edge now =>
      obtain ⟨hnow, htimes⟩ := List.forall_mem_cons.mp htimes
      have ht := (step_of_op s he rfl).trans (exec_edge_of_lt hnow)
      obtain ⟨u, hu, hevents, hcfg, hblock⟩ := ih (s := { s with block := s.block.edge s.cfg now, events := evs ++ rest })
        rfl htimes hrest
      exact ⟨u, (run_succ ht).trans hu, hevents, hcfg, hblock⟩
    | cmd w =>
      obtain ⟨t, ht, hevents, hcfg, hblock⟩ := step_block_of_command he hrestart hstop
      obtain ⟨u, hu, hevents', hcfg', hblock'⟩ := ih hevents (hcfg ▸ htimes) hrest
      refine ⟨u, (run_succ ht).trans hu, hevents', hcfg'.trans hcfg, ?_⟩
      rw [hblock', hblock, hcfg]
      rfl

/-! ### Edges of a recording -/

/-- What an edge stores while recording: its interval at the cursor, and its timestamp (40_capture.md R75, R78). -/
def Block.storeEdge (b : Block) (now : Nat) : Block :=
  Block.store (interval c now b.lastEdgeTime) { b with lastEdgeTime := now }

@[simp] theorem Block.storeEdge_cursor (b : Block) (now : Nat) : (b.storeEdge c now).cursor = b.cursor + 1 := rfl

/-- The stores of some edges, in delivery order. -/
def Block.storeEdges (b : Block) (times : List Nat) : Block := times.foldl (Block.storeEdge c) b

/-- The intervals between edges, the first one measured from `last`. -/
def intervals : Nat → List Nat → List Nat
  | _, [] => []
  | last, now :: times => interval c now last :: intervals now times

/-- Edges of a recording are stores, and the one at the last entry completes the capture besides. -/
theorem Block.edges_of_recording {times : List Nat} (hne : times ≠ []) {b : Block} (hbound : b.bound = true)
    (hrun : b.running = true) (hrec : b.phase = .recording) (hlen : b.cursor + times.length = 144) :
    b.edges c times = Block.complete c { b.storeEdges c times with running := false } := by
  induction times generalizing b with
  | nil => exact absurd rfl hne
  | cons now times ih =>
    have hstep : b.edge c now = Block.record c (interval c now b.lastEdgeTime) { b with lastEdgeTime := now } := by
      simp [Block.edge, hbound, hrun, hrec]
    cases times with
    | nil =>
      have hlast : b.cursor = 143 := by simpa using hlen
      have hgt : (b.storeEdge c now).cursor > capacity - 1 := by simp [hlast, capacity]
      exact hstep.trans (if_pos hgt)
    | cons now' times =>
      have hlen' : b.cursor + (times.length + 1 + 1) = 144 := hlen
      have hle : ¬ (b.storeEdge c now).cursor > capacity - 1 := by
        rw [Block.storeEdge_cursor, capacity]
        omega
      have hedge : b.edge c now = b.storeEdge c now := hstep.trans (if_neg hle)
      have hrest := ih (List.cons_ne_nil now' times) (b := b.storeEdge c now) hbound hrun hrec (by
        rw [Block.storeEdge_cursor, List.length_cons]
        omega)
      calc b.edges c (now :: now' :: times)
        _ = (b.storeEdge c now).edges c (now' :: times) := congrArg (Block.edges c · (now' :: times)) hedge
        _ = Block.complete c { b.storeEdges c (now :: now' :: times) with running := false } := hrest

/-! ### What the stores leave in the record -/

section Stores

variable (times : List Nat) (b : Block)

theorem Block.storeEdges_cursor : (b.storeEdges c times).cursor = b.cursor + times.length := by
  induction times generalizing b with
  | nil => rfl
  | cons now times ih =>
    calc (b.storeEdges c (now :: times)).cursor
      _ = (b.storeEdge c now).cursor + times.length := ih (b.storeEdge c now)
      _ = b.cursor + (now :: times).length := by
        rw [Block.storeEdge_cursor, List.length_cons]
        omega

theorem Block.storeEdges_phase : (b.storeEdges c times).phase = b.phase := by
  induction times generalizing b with
  | nil => rfl
  | cons now times ih => exact ih (b.storeEdge c now)

theorem Block.storeEdges_scanTiming : (b.storeEdges c times).scanTiming = b.scanTiming := by
  induction times generalizing b with
  | nil => rfl
  | cons now times ih => exact ih (b.storeEdge c now)

theorem Block.storeEdges_lastEdgeTime : (b.storeEdges c times).lastEdgeTime = times.getLastD b.lastEdgeTime := by
  induction times generalizing b with
  | nil => rfl
  | cons now times ih =>
    rw [List.getLastD_cons]
    exact ih (b.storeEdge c now)

theorem Block.storeEdges_lastEdgeTime_eq_getLast? (hne : times ≠ []) :
    some (b.storeEdges c times).lastEdgeTime = times.getLast? := by
  rw [Block.storeEdges_lastEdgeTime, List.getLastD_eq_getLast?, List.getLast?_eq_some_getLast hne, Option.getD_some]

/-- One store puts its value after the entries below the cursor. -/
theorem Block.store_tbuf_take {b : Block} (h : b.cursor < 144) (i : Nat) :
    (b.store i).tbuf.toList.take (b.cursor + 1) = b.tbuf.toList.take b.cursor ++ [i] := by
  rw [List.take_add_one]
  simp [h, List.take_set, List.set_eq_of_length_le]

/-- The stores put the intervals after the entries below the cursor, in order. -/
theorem Block.storeEdges_tbuf_take {b : Block} (h : b.cursor + times.length ≤ 144) :
    (b.storeEdges c times).tbuf.toList.take (b.cursor + times.length) =
      b.tbuf.toList.take b.cursor ++ intervals c b.lastEdgeTime times := by
  induction times generalizing b with
  | nil => simp [Block.storeEdges, intervals]
  | cons now times ih =>
    rw [List.length_cons] at h ⊢
    have hstore := Block.store_tbuf_take (b := { b with lastEdgeTime := now }) (show b.cursor < 144 by omega)
      (interval c now b.lastEdgeTime)
    have hrest := ih (b := b.storeEdge c now) (by rw [Block.storeEdge_cursor]; omega)
    calc (b.storeEdges c (now :: times)).tbuf.toList.take (b.cursor + (times.length + 1))
      _ = ((b.storeEdge c now).storeEdges c times).tbuf.toList.take (b.cursor + 1 + times.length) := by
        rw [Nat.add_assoc, Nat.add_comm 1]
        rfl
      _ = (b.storeEdge c now).tbuf.toList.take (b.cursor + 1) ++ intervals c now times := hrest
      _ = (b.tbuf.toList.take b.cursor ++ [interval c now b.lastEdgeTime]) ++ intervals c now times :=
        congrArg (· ++ _) hstore
      _ = b.tbuf.toList.take b.cursor ++ intervals c b.lastEdgeTime (now :: times) := by
        rw [List.append_assoc]
        rfl

end Stores

/-- Entry `j` of the intervals is measured from the edge before edge `j`. -/
theorem intervals_getElem? {times : List Nat} {first j now last : Nat} (hnow : times[j]? = some now)
    (hlast : (first :: times)[j]? = some last) : (intervals c first times)[j]? = some (interval c now last) := by
  induction times generalizing first j with
  | nil => cases hnow
  | cons t times ih =>
    cases j with
    | zero =>
      cases hnow
      cases hlast
      rfl
    | succ j => exact ih hnow hlast

/-- A buffer filled with the intervals of 144 edges holds at entry `j` the interval of edge `j`. -/
theorem tbuf_of_intervals {tbuf : Vector Nat 144} {times : List Nat} {first : Nat}
    (hfill : tbuf.toList.take 144 = intervals c first times) (j : Fin 144) {now last : Nat}
    (hnow : times[j.val]? = some now) (hlast : (first :: times)[j.val]? = some last) :
    (tbuf[j] : Int) = ((now : Int) - last) % 2 ^ c.timeW := by
  have hentry : tbuf.toList[j.val]? = some (interval c now last) := by
    rw [← intervals_getElem? c hnow hlast, ← hfill, List.take_of_length_le (by simp)]
  rw [← interval_eq]
  simpa using hentry

/-- Settles O56: the run is its edges, the edges are stores and one completion, and the stores fill the buffer with
the intervals. -/
theorem captureFillsTheBufferInOrder : Obligations.CaptureFillsTheBufferInOrder := by
  intro s evs rest hbound hrun hrec hzero he hlen htimes hcmds
  obtain ⟨t, ht, hevents, hcfg, hblock⟩ := run_block_eq_edges he htimes hcmds
  have hne : edgeTimes evs ≠ [] := List.ne_nil_of_length_pos (by omega)
  rw [Block.edges_of_recording s.cfg hne hbound hrun hrec (by omega)] at hblock
  have hfill := Block.storeEdges_tbuf_take s.cfg (edgeTimes evs) (b := s.block) (by omega)
  rw [hzero, hlen, List.take_zero, List.nil_append] at hfill
  have hlast := Block.storeEdges_lastEdgeTime_eq_getLast? s.cfg (edgeTimes evs) s.block hne
  rw [List.getLast?_eq_getElem?, hlen] at hlast
  refine ⟨t, ht, hevents, hcfg, ?_, ?_, ?_, ?_, ?_, fun j now last hnow hlast => ?_, ?_, ?_, ?_, ?_⟩ <;> rw [hblock]
  · simp
  · simp [Block.storeEdges_cursor, hzero, hlen]
  · simp [Block.storeEdges_phase, hrec]
  · simp [Block.storeEdges_scanTiming]
  · simpa using hlast
  · exact tbuf_of_intervals s.cfg (by simpa using hfill) j hnow hlast
  all_goals simp

end Sys2Proof.Machine
end

section
/-! PROOFS. The classifier by its windows (41_classifier.md R97), and where the windows overlap (41_classifier.md R98;
90_conflicts.md C9). -/

namespace Sys2Proof.Machine

variable {c : Config} {t high low : Nat}

/-! ### The windows against each other -/

/-- The windows are apart when the short one ends below the long one. -/
theorem isShort_eq_false_of_isLong (h : 6 * c.delta < c.period) (hlong : isLong c t = true) : isShort c t = false := by
  rw [isLong_iff_bounds] at hlong
  rw [Bool.eq_false_iff, Ne, isShort_iff_bounds]
  omega

theorem isShort_zero_eq_false (h : 2 * c.delta < c.period) : isShort c 0 = false := by
  rw [Bool.eq_false_iff, Ne, isShort_iff_bounds]
  omega

/-- The windows share a value as soon as the end of the short one, PERIOD + 2 DELTA, is long. -/
theorem exists_isShort_and_isLong_iff :
    (∃ t, isShort c t = true ∧ isLong c t = true) ↔ c.period ≤ 6 * c.delta := by
  simp only [isShort_iff_bounds, isLong_iff_bounds]
  constructor
  · rintro ⟨t, hshort, hlong⟩
    omega
  · intro h
    exact ⟨c.period + 2 * c.delta, by omega, by omega⟩

/-! ### The three clauses of `classify` -/

theorem classify_eq_s0 (hhigh : isShort c high = true) (hlow : isShort c low = true) : classify c high low = .s0 := by
  simp [classify, hhigh, hlow]

theorem classify_eq_s1 (hhigh : isShort c high = true) (hlow : isLong c low = true) (hshort : isShort c low = false) :
    classify c high low = .s1 := by
  simp [classify, hhigh, hlow, hshort]

theorem classify_eq_sinv_of_high (hhigh : isShort c high = false) (low : Nat) : classify c high low = .sinv := by
  simp [classify, hhigh]

theorem classify_eq_sinv_of_low (high : Nat) (hshort : isShort c low = false) (hlong : isLong c low = false) :
    classify c high low = .sinv := by
  simp [classify, hshort, hlong]

/-- Settles O37: the clauses in their order, and the two corners from the bounds of the windows. -/
theorem classifyByWindows : Obligations.ClassifyByWindows := fun _ high low =>
  ⟨classify_eq_s0, classify_eq_s1, isShort_eq_false_of_isLong, fun hhigh => classify_eq_sinv_of_high hhigh low,
    classify_eq_sinv_of_low high, fun h => classify_eq_sinv_of_high (isShort_zero_eq_false h) low⟩

/-- Settles O38: the windows meet at the end of the short one, and the clause of S0 is the first. -/
theorem windowsOverlapExactlyWhen : Obligations.WindowsOverlapExactlyWhen := fun _ =>
  ⟨exists_isShort_and_isLong_iff, fun _ _ hhigh hlow _ => classify_eq_s0 hhigh hlow⟩

/-! ### The pulses of the frame timing rule -/

theorem isShort_period : isShort c c.period = true := by
  rw [isShort_iff_bounds]
  omega

theorem isLong_two_period : isLong c (2 * c.period) = true := by
  rw [isLong_iff_bounds]
  omega

/-- A nominal pair: high for one PERIOD, low for two when the bit is 1 and one when it is 0. -/
theorem classify_nominal (h : 6 * c.delta < c.period) (bit : Bool) :
    classify c c.period (if bit = true then 2 * c.period else c.period) = if bit = true then .s1 else .s0 := by
  cases bit with
  | true => exact classify_eq_s1 isShort_period isLong_two_period (isShort_eq_false_of_isLong h isLong_two_period)
  | false => exact classify_eq_s0 isShort_period isShort_period

end Sys2Proof.Machine
end

section
/-! PROOFS. The nibble transform on strings and on bytes (42_assembler.md R107, R108), the bits of a packed string read
back (42_assembler.md section 4), and the decode of an encoded frame (95_test_vectors.md, frame timing rule). -/

namespace Sys2Proof.Machine

/-! ### Reversing the nibbles of a byte -/

theorem rev4_getLsbD (n : Nibble) (j : Fin 4) : (rev4 n).getLsbD j.val = n.getLsbD (3 - j.val) := by
  simp only [rev4, BitVec.getLsbD_append]
  fin_cases j <;> simp

/-- The byte with its high and its low nibble each bit-reversed. -/
def reverseNibbles (y : Byte) : Byte := rev4 (y.extractLsb' 4 4) ++ rev4 (y.extractLsb' 0 4)

/-- Bit `i` comes from the mirrored place of its own nibble. -/
theorem reverseNibbles_getLsbD (y : Byte) {i : Nat} (h : i < 8) :
    (reverseNibbles y).getLsbD i = y.getLsbD (4 * (i / 4) + 3 - i % 4) := by
  rw [reverseNibbles, BitVec.getLsbD_append]
  split
  · next hlow =>
    rw [rev4_getLsbD _ ⟨i, hlow⟩, BitVec.getLsbD_extractLsb', decide_eq_true (by simp; omega), Bool.true_and]
    congr 1
    dsimp only
    omega
  · next hhigh =>
    rw [rev4_getLsbD _ ⟨i - 4, by omega⟩, BitVec.getLsbD_extractLsb', decide_eq_true (by simp; omega), Bool.true_and]
    congr 1
    dsimp only
    omega

theorem reverseNibbles_xor (y z : Byte) :
    reverseNibbles (y ^^^ z) = reverseNibbles y ^^^ reverseNibbles z := by
  refine BitVec.eq_of_getLsbD_eq fun i hi => ?_
  simp only [BitVec.getLsbD_xor, reverseNibbles_getLsbD _ hi]

theorem reverseNibbles_involutive : Function.Involutive reverseNibbles := by
  intro y
  refine BitVec.eq_of_getLsbD_eq fun i hi => ?_
  rw [reverseNibbles_getLsbD _ hi, reverseNibbles_getLsbD _ (by omega)]
  congr 1
  omega

/-! ### Bits and symbols -/

/-- Symbol `k` is the bit at its place of the packed string (20_memory.md R42). -/
theorem packBytes_getLsbD (x : Vector Symbol 72) (k : Fin 72) :
    (packBytes x)[k.val / 8].getLsbD (7 - k.val % 8) = decide (x[k] = .s1) := by
  have h := packingIsMsbFirst x ⟨k.val / 8, by omega⟩ ⟨k.val % 8, by omega⟩
  simpa only [Fin.getElem_fin, Nat.div_add_mod] using h

/-- Nine bytes are equal when they agree at the place of each symbol. -/
theorem bytes_ext {r r' : Vector Byte 9}
    (h : ∀ k : Fin 72, r[k.val / 8].getLsbD (7 - k.val % 8) = r'[k.val / 8].getLsbD (7 - k.val % 8)) : r = r' := by
  refine Vector.ext fun b hb => BitVec.eq_of_getLsbD_eq fun i hi => ?_
  have hbit := h ⟨8 * b + (7 - i), by omega⟩
  simpa only [show (8 * b + (7 - i)) / 8 = b by omega, show 7 - (8 * b + (7 - i)) % 8 = i by omega] using hbit

/-- Packing sees the transform as `reverseNibbles` of each byte. -/
theorem packBytes_reverseGroups (x : Vector Symbol 72) :
    packBytes (reverseGroups x) = (packBytes x).map reverseNibbles := by
  refine bytes_ext fun k => ?_
  have hbyte : (4 * (k.val / 4) + 3 - k.val % 4) / 8 = k.val / 8 := by omega
  have hbit : 7 - (4 * (k.val / 4) + 3 - k.val % 4) % 8 =
      4 * ((7 - k.val % 8) / 4) + 3 - (7 - k.val % 8) % 4 := by omega
  have hplace := packBytes_getLsbD x ⟨4 * (k.val / 4) + 3 - k.val % 4, by omega⟩
  simp only [hbyte, hbit] at hplace
  rw [packBytes_getLsbD, Vector.getElem_map, reverseNibbles_getLsbD _ (by omega), hplace, Fin.getElem_fin,
    reverseGroups_getElem]
  rfl

/-- Settles O41: the symbol at each place, the bit at each place of a nibble, and the bytes by their bits. -/
theorem messageByteIsItsRawByteNibblesReversed : Obligations.MessageByteIsItsRawByteNibblesReversed := by
  refine ⟨fun x g j => ?_, rev4_getLsbD, fun x b => ?_⟩
  · rw [reverseGroups_getElem]
    congr 1
    omega
  · rw [packBytes_reverseGroups, Fin.getElem_fin, Vector.getElem_map]
    rfl

theorem reverseGroups_reverseGroups (x : Vector Symbol 72) : reverseGroups (reverseGroups x) = x := by
  refine Vector.ext fun k hk => ?_
  rw [reverseGroups_getElem, reverseGroups_getElem]
  congr 1
  omega

/-- The string that the packed bytes show, MSB first. -/
def unpack (r : Vector Byte 9) : Vector Symbol 72 :=
  Vector.ofFn fun k : Fin 72 => if r[k.val / 8].getLsbD (7 - k.val % 8) = true then .s1 else .s0

/-- What packing forgets is which zeros were Invalid. -/
theorem unpack_packBytes (x : Vector Symbol 72) :
    unpack (packBytes x) = x.map fun y => if y = .sinv then .s0 else y := by
  refine Vector.ext fun k hk => ?_
  have hbit := packBytes_getLsbD x ⟨k, hk⟩
  rw [unpack, Vector.getElem_ofFn, Vector.getElem_map, hbit]
  simp only [Fin.getElem_fin]
  cases x[k] <;> rfl

/-- Settles O42: the bit of a symbol says whether it is S1, and two mirrorings of a group cancel. -/
theorem roundTripAndInvolution : Obligations.RoundTripAndInvolution := by
  refine ⟨unpack_packBytes, fun x hvalid => ?_, fun x k hinv => ?_, reverseGroups_reverseGroups⟩
  · refine (unpack_packBytes x).trans (Vector.ext fun k hk => ?_)
    rw [Vector.getElem_map]
    exact if_neg (hvalid ⟨k, hk⟩)
  · rw [packBytes_getLsbD, hinv]
    rfl

/-! ### The decode of an encoded frame -/

/-- The frame timing rule of 95_test_vectors.md: the buffer holds the pulses of the bits of `r`, MSB first. -/
def Encodes (c : Config) (r : Vector Byte 9) (buf : Vector Nat 144) : Prop :=
  ∀ k : Fin 72, buf[2 * k.val] = c.period ∧
    buf[2 * k.val + 1] = if r[k.val / 8].getLsbD (7 - k.val % 8) = true then 2 * c.period else c.period

theorem classifyAll_of_encodes {c : Config} {r : Vector Byte 9} {buf : Vector Nat 144} (h : 6 * c.delta < c.period)
    (hbuf : Encodes c r buf) : classifyAll c buf = unpack r := by
  refine Vector.ext fun k hk => ?_
  obtain ⟨hhigh, hlow⟩ := hbuf ⟨k, hk⟩
  rw [classifyAll_getElem, hhigh, hlow, classify_nominal h, unpack, Vector.getElem_ofFn]

theorem packBytes_unpack (r : Vector Byte 9) : packBytes (unpack r) = r := by
  refine bytes_ext fun k => ?_
  rw [packBytes_getLsbD, Fin.getElem_fin, unpack, Vector.getElem_ofFn]
  split <;> simp_all

theorem countInvalid_unpack (r : Vector Byte 9) : countInvalid (unpack r) = 0 := by
  rw [countInvalid_eq_card, Finset.card_eq_zero, Finset.filter_eq_empty_iff]
  intro k _
  rw [Fin.getElem_fin, unpack, Vector.getElem_ofFn]
  split <;> decide

/-- Settles O44: the pulses classify as the bits of the bytes, with no Invalid symbol. -/
theorem encodedFrameDecodesToItsBytes : Obligations.EncodedFrameDecodesToItsBytes := by
  intro c r buf h hbuf
  simp only [decodeBuffer, classifyAll_of_encodes h hbuf, packBytes_reverseGroups, packBytes_unpack,
    countInvalid_unpack]
  exact ⟨trivial, rfl, trivial⟩

/-! ### The checksum of a transformed message -/

theorem checksum_map_reverseNibbles (m : Vector Byte 9) :
    checksum (m.map reverseNibbles) = reverseNibbles (checksum m) := by
  simp only [checksum_eq_xor, Vector.getElem_map, reverseNibbles_xor]

/-- Settles O48: `reverseNibbles` respects the exclusive OR of the fold and is one to one. -/
theorem verifySameOnRawAndMessage : Obligations.VerifySameOnRawAndMessage := by
  intro x
  rw [packBytes_reverseGroups, Bool.eq_iff_iff, verifies_iff, verifies_iff, checksum_map_reverseNibbles,
    Vector.getElem_map, reverseNibbles_involutive.injective.eq_iff]

end Sys2Proof.Machine
end

section
/-! PROOFS. What the checksum detects (43_integrity.md R130): it does not see the order of its bytes, it sees a change
of one byte, and it does not see two equal changes. -/

namespace Sys2Proof.Machine

/-! ### The order of the bytes -/

theorem checksum_eq_of_perm {m m' : Vector Byte 9} (h : (m.toList.take 8).Perm (m'.toList.take 8)) :
    checksum m = checksum m' :=
  h.foldl_eq' (fun x _ y _ c => by rw [BitVec.xor_assoc, BitVec.xor_comm x, ← BitVec.xor_assoc]) 0x00

/-- Settles O46: the fold does not depend on the order of its bytes, and the verdict adds byte 8 alone. -/
theorem checksumIgnoresByteOrder : Obligations.ChecksumIgnoresByteOrder := by
  intro m m' h
  have hsum := checksum_eq_of_perm h
  exact ⟨hsum, fun hlast => by rw [verifies, verifies, hsum, hlast]⟩

/-! ### The exclusive OR of all nine bytes -/

/-- The exclusive OR of all nine bytes, byte 8 among them. -/
def xorAll (m : Vector Byte 9) : Byte := m.toList.foldr (· ^^^ ·) 0#8

theorem toList_eq_take_eight_append (m : Vector Byte 9) : m.toList = m.toList.take 8 ++ [m[8]] := by
  have hlast : m.toList.drop 8 = [m[8]] := by
    rw [List.drop_eq_getElem_cons (by simp), List.drop_of_length_le (by simp), Vector.getElem_toList]
  rw [← hlast, List.take_append_drop]

/-- A message verifies when its nine bytes cancel. -/
theorem verifies_iff_xorAll (m : Vector Byte 9) : verifies m = true ↔ xorAll m = 0#8 := by
  have hxor : xorAll m = checksum m ^^^ m[8] := by
    rw [xorAll, toList_eq_take_eight_append, toList_take_eight, checksum_eq_xor]
    simp [BitVec.xor_assoc]
  rw [verifies_iff, hxor, BitVec.xor_eq_zero_iff]

theorem foldr_xor_set {l : List Byte} {i : Nat} (h : i < l.length) (x : Byte) :
    (l.set i x).foldr (· ^^^ ·) 0#8 = l.foldr (· ^^^ ·) 0#8 ^^^ (l[i] ^^^ x) := by
  induction l generalizing i with
  | nil => cases h
  | cons y l ih =>
    cases i with
    | zero =>
      -- `y` cancels, and `x` moves before the rest of the fold.
      rw [List.set_cons_zero, List.foldr_cons, List.foldr_cons, List.getElem_cons_zero, BitVec.xor_comm y,
        BitVec.xor_assoc, ← BitVec.xor_assoc y, BitVec.xor_self, BitVec.zero_xor, BitVec.xor_comm]
    | succ i =>
      rw [List.set_cons_succ, List.foldr_cons, List.foldr_cons, ih (Nat.lt_of_succ_lt_succ h), BitVec.xor_assoc,
        List.getElem_cons_succ]

/-- Replacing one byte shows as the difference of the old and the new value. -/
theorem xorAll_set (m : Vector Byte 9) (i : Fin 9) (x : Byte) : xorAll (m.set i x) = xorAll m ^^^ (m[i] ^^^ x) := by
  rw [xorAll, Vector.toList_set, foldr_xor_set (by simp)]
  rfl

/-- Settles O47: one difference does not cancel, two equal differences do. -/
theorem singleByteChangeDetectedCancellingPairNot : Obligations.SingleByteChangeDetectedCancellingPairNot := by
  intro m hm
  rw [verifies_iff_xorAll] at hm
  refine ⟨fun i x hne => ?_, fun i j d hij => ?_⟩
  · rw [Bool.eq_false_iff, Ne, verifies_iff_xorAll, xorAll_set, hm, BitVec.zero_xor, BitVec.xor_eq_zero_iff]
    exact hne.symm
  · have hother : (m.set i (m[i] ^^^ d))[j] = m[j] := Vector.getElem_set_ne _ _ (by simpa [Fin.ext_iff] using hij)
    have hdiff (y : Byte) : y ^^^ (y ^^^ d) = d := by rw [← BitVec.xor_assoc, BitVec.xor_self, BitVec.zero_xor]
    rw [verifies_iff_xorAll, xorAll_set, xorAll_set, hother, hm, hdiff, hdiff, BitVec.zero_xor, BitVec.xor_self]

end Sys2Proof.Machine
end

section
/-! PROOFS. The indexed reads GET_RAW, GET_MSG and GET_NIB (42_assembler.md R112, R113; 44_fields.md R136), the fields
that are two or three nibbles joined (44_fields.md R139 to R141), and what no field reads (44_fields.md R144). -/

namespace Sys2Proof.Machine

/-! ### Indexed reads -/

theorem decodeCmd_of_admits {opc idx : BitVec 8} {cls : OperandClass} {mk : Nat → Instr}
    (hrow : opcodeRow opc = some (cls, mk)) (h : cls.admits idx.toNat = true) :
    decodeCmd (opc ++ idx) = .op (mk idx.toNat) := by
  simp [decodeCmd_append, hrow, h]

theorem decodeCmd_of_not_admits {opc idx : BitVec 8} {cls : OperandClass} {mk : Nat → Instr}
    (hrow : opcodeRow opc = some (cls, mk)) (h : cls.admits idx.toNat = false) :
    decodeCmd (opc ++ idx) = .illegal cls.reject := by
  simp [decodeCmd_append, hrow, h]

/-- Class B: the indexes 0 to 8 spell the command, and no other. -/
theorem decodeCmd_classB {opc : BitVec 8} {mk : Nat → Instr} (hrow : opcodeRow opc = some (.B, mk)) (idx : BitVec 8) :
    (idx.toNat ≤ 8 → decodeCmd (opc ++ idx) = .op (mk idx.toNat)) ∧
      (8 < idx.toNat → decodeCmd (opc ++ idx) = .illegal .byteIndexOutOfRange) :=
  ⟨fun h => decodeCmd_of_admits hrow (decide_eq_true h),
    fun h => decodeCmd_of_not_admits hrow (decide_eq_false (Nat.not_le.mpr h))⟩

/-- Class P: the positions 0 to 17 spell the command, and no other. -/
theorem decodeCmd_classP {opc : BitVec 8} {mk : Nat → Instr} (hrow : opcodeRow opc = some (.P, mk)) (idx : BitVec 8) :
    (idx.toNat ≤ 17 → decodeCmd (opc ++ idx) = .op (mk idx.toNat)) ∧
      (17 < idx.toNat → decodeCmd (opc ++ idx) = .illegal .nibblePosOutOfRange) :=
  ⟨fun h => decodeCmd_of_admits hrow (decide_eq_true h),
    fun h => decodeCmd_of_not_admits hrow (decide_eq_false (Nat.not_le.mpr h))⟩

section Answers

variable (s : State) (v : Data)

theorem readyGate_of_running (hrun : s.block.running = true) : readyGate v s = .next (s.emit ⟨.notReady, 0⟩) := by
  rw [readyGate_eq, if_pos hrun]

theorem readyGate_of_complete (hdone : s.block.running = false) : readyGate v s = .next (s.emit ⟨.ok, v⟩) := by
  rw [readyGate_eq, if_neg (by simp [hdone])]

variable {idx : Nat}

theorem exec_getRaw_of_le (h : idx ≤ 8) :
    exec (.getRaw idx) s = readyGate ((s.block.raw[idx]'(by omega)).setWidth 32) s := by
  rw [show exec (.getRaw idx) s = execGetRaw idx s from rfl, execGetRaw, byteOperand_of_le _ h, ← BitVec.ofNat_toNat]
  rfl

theorem exec_getRaw_of_gt (h : 8 < idx) : exec (.getRaw idx) s = .next (s.emit ⟨.illegal, 0⟩) := by
  rw [show exec (.getRaw idx) s = execGetRaw idx s from rfl, execGetRaw, byteOperand_of_gt _ h]
  rfl

theorem exec_getMsg_of_gt (h : 8 < idx) : exec (.getMsg idx) s = .next (s.emit ⟨.illegal, 0⟩) := by
  rw [show exec (.getMsg idx) s = execGetMsg idx s from rfl, execGetMsg, byteOperand_of_gt _ h]
  rfl

theorem exec_getNib_of_le (h : idx ≤ 17) :
    exec (.getNib idx) s = readyGate ((nibble s.block.msg ⟨idx, by omega⟩).setWidth 32) s := by
  rw [show exec (.getNib idx) s = execGetNib idx s from rfl, execGetNib, nibbleOperand_of_le _ h,
    ← BitVec.ofNat_toNat]
  rfl

theorem exec_getNib_of_gt (h : 17 < idx) : exec (.getNib idx) s = .next (s.emit ⟨.illegal, 0⟩) := by
  rw [show exec (.getNib idx) s = execGetNib idx s from rfl, execGetNib, nibbleOperand_of_gt _ h]
  rfl

end Answers

/-- Settles O17: the ready gate over the byte, for an index in range. -/
theorem getRawReadsOneByte : Obligations.GetRawReadsOneByte := by
  refine ⟨decodeCmd_classB rfl, fun s idx h => exec_getRaw_of_gt s h, fun s idx h hrun => ?_, fun s b hdone => ?_⟩
  · exact (exec_getRaw_of_le s h).trans (readyGate_of_running s _ hrun)
  · exact (exec_getRaw_of_le s (by omega)).trans (readyGate_of_complete s _ hdone)

/-- Settles O18: the ready gate over the byte, for an index in range. -/
theorem getMsgReadsOneByte : Obligations.GetMsgReadsOneByte := by
  refine ⟨decodeCmd_classB rfl, fun s idx h => exec_getMsg_of_gt s h, fun s idx h hrun => ?_, fun s b hdone => ?_⟩
  · rw [exec_getMsg_of_le s h, if_pos hrun]
    rfl
  · rw [exec_getMsg_of_le s (by omega), if_neg (by simp [hdone])]
    rfl

/-- Settles O20: the ready gate over the nibble, for a position in range. -/
theorem getNibReadsOneNibble : Obligations.GetNibReadsOneNibble := by
  refine ⟨decodeCmd_classP rfl, fun s idx h => exec_getNib_of_gt s h, fun s idx h hrun => ?_, fun s p hdone => ?_,
    fun m => ⟨rfl, rfl⟩⟩
  · exact (exec_getNib_of_le s h).trans (readyGate_of_running s _ hrun)
  · exact (exec_getNib_of_le s (by omega)).trans (readyGate_of_complete s _ hdone)

/-! ### Joined nibbles -/

section Joined

variable (a b c : Nibble)

theorem compose2_eq : compose2 a b = (a ++ b).toNat := (BitVec.toNat_append a b).symm

theorem compose3_eq : compose3 a b c = (a ++ b ++ c).toNat := by
  rw [BitVec.toNat_append, BitVec.toNat_append, Nat.shiftLeft_or_distrib, ← Nat.shiftLeft_add]
  rfl

/-- A word no wider than the data word is read back from it as it is. -/
theorem zext32_toNat {w : Nat} (hw : w ≤ 32) (x : BitVec w) : (zext32 x.toNat).toNat = x.toNat :=
  zext32_toNat_of_lt (x.isLt.trans_le (Nat.pow_le_pow_right (by decide) hw))

theorem zext32_compose2_toNat : (zext32 (compose2 a b)).toNat = compose2 a b := by
  rw [compose2_eq, zext32_toNat (by decide)]

theorem zext32_compose3_toNat : (zext32 (compose3 a b c)).toNat = compose3 a b c := by
  rw [compose3_eq, zext32_toNat (by decide)]

theorem zext32_compose2 : zext32 (compose2 a b) = 0#24 ++ a ++ b := by
  refine BitVec.eq_of_toNat_eq ?_
  rw [zext32_compose2_toNat, compose2_eq]
  simp only [BitVec.toNat_append, BitVec.toNat_zero, Nat.zero_shiftLeft, Nat.zero_or]

theorem zext32_compose3 : zext32 (compose3 a b c) = 0#20 ++ a ++ b ++ c := by
  refine BitVec.eq_of_toNat_eq ?_
  rw [zext32_compose3_toNat, compose3_eq]
  simp only [BitVec.toNat_append, BitVec.toNat_zero, Nat.zero_shiftLeft, Nat.zero_or]

end Joined

theorem high_append_low (x : Byte) : x.extractLsb' 4 4 ++ x.extractLsb' 0 4 = x :=
  (BitVec.extractLsb'_append_extractLsb'_eq_extractLsb' (start₂ := 4) (start₁ := 0) (len₁ := 4) rfl).trans
    BitVec.extractLsb'_eq_self

/-- Nibbles 4 and 5 are the halves of byte 2, in their order. -/
theorem zext32_deviceId (m : Vector Byte 9) : zext32 (deviceId m) = m[2].setWidth 32 :=
  calc zext32 (deviceId m)
    _ = zext32 (m[2].extractLsb' 4 4 ++ m[2].extractLsb' 0 4).toNat := congrArg zext32 (compose2_eq ..)
    _ = m[2].setWidth 32 := by rw [high_append_low, zext32, BitVec.ofNat_toNat]

/-- Settles O25: the field gate over nibbles 7, 6 and 8 joined. -/
theorem depthReturnsTheDepth : Obligations.DepthReturnsTheDepth :=
  fieldCommand_answers rfl (fun _ => rfl) fun _ => ⟨zext32_compose3_toNat .., zext32_compose3 ..⟩

/-- Settles O26: the field gate over nibbles 4 and 5 joined. -/
theorem devidReturnsTheDeviceId : Obligations.DevidReturnsTheDeviceId :=
  fieldCommand_answers rfl (fun _ => rfl) fun s => ⟨zext32_compose2_toNat .., zext32_deviceId s.block.msg⟩

/-- Settles O27: the field gate over nibbles 3 and 2 joined, the halves of byte 1 exchanged. -/
theorem seridReturnsTheSerialId : Obligations.SeridReturnsTheSerialId :=
  fieldCommand_answers rfl (fun _ => rfl) fun _ => ⟨zext32_compose2_toNat .., zext32_compose2 ..⟩

/-! ### What no field reads -/

/-- The two messages agree on nibbles 2 to 13. -/
def AgreeOnFields (m m' : Vector Byte 9) : Prop := ∀ p : Fin 18, 2 ≤ p.val → p.val ≤ 13 → nibble m p = nibble m' p

/-- A field command answers, through the field gate, a value of nibbles 2 to 13. -/
theorem exec_field {i : Instr} (h : gatedByChecksum i = true) : ∃ v : Vector Byte 9 → Data,
    (∀ s, exec i s = fieldRespond (v s.block.msg) s) ∧ ∀ m m', AgreeOnFields m m' → v m = v m' := by
  cases i with
  | temp =>
    refine ⟨fun m => sext32 (temperature m), fun _ => rfl, fun m m' hm => ?_⟩
    have hraw : rawTemp m = rawTemp m' := by
      rw [rawTemp, rawTemp, hm 13 (by decide) (by decide), hm 12 (by decide) (by decide), hm 10 (by decide) (by decide)]
    simp only [temperature, hraw]
  | depth =>
    refine ⟨fun m => zext32 (depth m), fun _ => rfl, fun m m' hm => ?_⟩
    simp only [depth, hm 7 (by decide) (by decide), hm 6 (by decide) (by decide), hm 8 (by decide) (by decide)]
  | devid =>
    refine ⟨fun m => zext32 (deviceId m), fun _ => rfl, fun m m' hm => ?_⟩
    simp only [deviceId, hm 4 (by decide) (by decide), hm 5 (by decide) (by decide)]
  | serid =>
    refine ⟨fun m => zext32 (serialId m), fun _ => rfl, fun m m' hm => ?_⟩
    simp only [serialId, hm 3 (by decide) (by decide), hm 2 (by decide) (by decide)]
  | lowbat =>
    refine ⟨fun m => zext32 (lowBattery m), fun _ => rfl, fun m m' hm => ?_⟩
    simp only [lowBattery, hm 9 (by decide) (by decide)]
  | txint =>
    refine ⟨fun m => zext32 (transmitInterval m), fun _ => rfl, fun m m' hm => ?_⟩
    simp only [transmitInterval, hm 11 (by decide) (by decide)]
  | start | stop | reset | isReady | getStatus | getScan | getInvcnt | getRaw | getMsg | getNib | verify | available
  | edge => cases h

theorem fieldRespond_of_verifies {s : State} (hdone : s.block.running = false) (hver : verifies s.block.msg = true)
    (v : Data) : fieldRespond v s = .next (s.emit ⟨.ok, v⟩) := by
  rw [fieldRespond_eq, if_neg (by simp [hdone]), if_pos hver]

/-- Settles O31: both messages open the gate, and its value is the same for both. -/
theorem fieldsReadNibblesTwoToThirteen : Obligations.FieldsReadNibblesTwoToThirteen := by
  intro s m i hi hdone hver hver' hm
  obtain ⟨v, hexec, hv⟩ := exec_field hi
  refine ⟨⟨.ok, v s.block.msg⟩, ?_, rfl, ?_⟩
  · exact (hexec s).trans (fieldRespond_of_verifies hdone hver _)
  · rw [hexec, ← hv m _ hm]
    exact fieldRespond_of_verifies (s := { s with block := { s.block with msg := m } }) hdone hver' _

/-! ### A capture of noise -/

/-- The nine zero bytes that a string of Invalid symbols packs to. -/
def zeroMessage : Vector Byte 9 := Vector.replicate 9 0x00

theorem packBytes_replicate_sinv : packBytes (reverseGroups (Vector.replicate 72 .sinv)) = zeroMessage := by decide

theorem countInvalid_replicate_sinv : countInvalid (Vector.replicate 72 .sinv) = 72 :=
  Vector.countP_replicate.trans (if_pos rfl)

theorem zeroMessage_verifies : verifies zeroMessage = true := by decide

theorem zeroMessage_fields : sext32 (temperature zeroMessage) = 0xFFFFFFD8 ∧ zext32 (depth zeroMessage) = 0 ∧
    zext32 (deviceId zeroMessage) = 0 ∧ zext32 (serialId zeroMessage) = 0 ∧ zext32 (lowBattery zeroMessage) = 0 ∧
    zext32 (transmitInterval zeroMessage) = 180 := by decide

theorem classifyAll_eq_replicate_sinv {c : Config} {buf : Vector Nat 144}
    (h : ∀ k : Fin 72, classify c buf[2 * k.val] buf[2 * k.val + 1] = .sinv) :
    classifyAll c buf = Vector.replicate 72 .sinv := by
  refine Vector.ext fun k hk => ?_
  rw [classifyAll_getElem, Vector.getElem_replicate]
  exact h ⟨k, hk⟩

/-- Settles O45: the string is all Invalid, so its message is the zero message, which opens the field gate. -/
theorem noiseVerifiesAsAnEmptyMessage : Obligations.NoiseVerifiesAsAnEmptyMessage := by
  intro s hinv hdone hnoise
  obtain ⟨hsym, -, hmsg, hcount⟩ := hinv.block.decoded hdone
  rw [hsym, classifyAll_eq_replicate_sinv hnoise] at hmsg hcount
  rw [packBytes_replicate_sinv] at hmsg
  rw [countInvalid_replicate_sinv] at hcount
  have hver : verifies s.block.msg = true := hmsg ▸ zeroMessage_verifies
  have field {v d : Data} (hv : v = d) : fieldRespond v s = .next (s.emit ⟨.ok, d⟩) :=
    hv ▸ fieldRespond_of_verifies hdone hver v
  obtain ⟨htemp, hdepth, hdevid, hserid, hlowbat, htxint⟩ := hmsg ▸ zeroMessage_fields
  refine ⟨?available, field htemp, field hdepth, field hdevid, field hserid, field hlowbat, field htxint, ?invcnt⟩
  case available =>
    rw [exec_available, s.block.available_iff.mpr ⟨hdone, hver⟩]
    rfl
  case invcnt =>
    rw [exec_getInvcnt, if_neg (by simp [hdone]), hcount]
    rfl

end Sys2Proof.Machine
end
